-- ==== Sys2Proof/Word.lean ====
section
/-! DEFINITION. The widths of the machine: words, bytes, and the indices the spec writes as bit fields. -/

namespace Sys2Proof

/-- "A 32-bit word length for both instructions and registers" (R20, R140). -/
abbrev Word := BitVec 32

/-- A byte of storage, 8 bits (R9). -/
abbrev Byte := BitVec 8

/-- A general register number, a 5-bit field of an instruction (R141). -/
abbrev RegIdx := BitVec 5

/-- A device number on its interrupt line, "an integer in [0..7]" (R395). -/
abbrev DevNo := Fin 8

end Sys2Proof
end

