-- ==== Sys2Proof/Config.lean ====
section
/-! DEFINITION. What the architecture leaves open: the free values (constants without a body) and the
parameters of R7 and R8, which a machine state carries and no instruction changes. -/

namespace Sys2Proof

/-- The places where the spec leaves a value open. Each is one argument of a free value, so that two
open values of one step are unrelated. -/
inductive FreeSlot where
  /-- a source register read in the load delay slot, first operand (R226) -/
  | operandRs
  /-- a source register read in the load delay slot, second operand (R226) -/
  | operandRt
  /-- HI after a division the spec gives no result for (R214, R215) -/
  | divHi
  /-- LO after a division the spec gives no result for (R214, R215) -/
  | divLo
  /-- the unnamed bits of Status after software wrote it (R41) -/
  | statusUnnamed
  /-- EntryHi[5:0] after software wrote it (R53) -/
  | entryHiUnnamed
  /-- EntryLo[7:0] after software wrote it (R54) -/
  | entryLoUnnamed
  /-- Index.TLB-Index after a failed probe (R285) -/
  | probeIndex
  /-- how long an operation of a (sub-)device takes (R403) -/
  | deviceDelay (unit : Nat) (dev : DevNo)
  /-- when word `j` of a DMA block moves (R125) -/
  | dmaTime (unit : Nat) (dev : DevNo) (j : Nat)
  /-- byte `j` of a block whose transfer ended in error (R399, R410) -/
  | dmaGarbage (unit : Nat) (dev : DevNo) (j : Nat)
  /-- the boom's cylinder after a failed seek (R410) -/
  | boom (dev : DevNo)
  /-- whether a tape moved in an operation that ended in a DMA error or a hardware failure (R418, R402) -/
  | tapeHead (dev : DevNo)
  /-- the marker word of a busy tape (R416) -/
  | tapeMarker (dev : DevNo)
  /-- the character field of a terminal status whose code is not 5 (R427) -/
  | termChar (unit : Nat) (dev : DevNo)
  /-- the cycles a ROM routine takes (R300) -/
  | romCycles
  /-- a general register a ROM routine leaves unspecified (R301, R314, R455) -/
  | romReg (r : RegIdx)
  /-- where in ROM FORK loads its last group (R314) -/
  | forkResume
  /-- the slot a TLB refill fills (R310) -/
  | refillSlot
  deriving DecidableEq, Repr

/-- A word the spec leaves open (`draw` of R10), a different one for every slot and every value of the
state's counter. It has no body: nothing can be proved of its value. -/
opaque Config.freeWord : FreeSlot → Nat → Word

/-- A number the spec leaves open (`draw` of R10). It has no body. -/
opaque Config.freeNat : FreeSlot → Nat → Nat

end Sys2Proof

namespace Sys2Proof.Machine

/-- A disk's geometry, in the widths of its DATA1 word (R406). -/
structure DiskGeom where
  /-- number of cylinders, MAXCYL -/
  maxCyl : BitVec 16
  /-- number of heads, MAXHEAD -/
  maxHead : BitVec 8
  /-- number of sectors a track, MAXSECT -/
  maxSect : BitVec 8
  deriving DecidableEq, Repr

/-- The addresses of the eight processor state areas in the ROM Reserved Frame (R303). -/
structure StateAreas where
  intOld : Word
  intNew : Word
  tlbOld : Word
  tlbNew : Word
  pgmTrapOld : Word
  pgmTrapNew : Word
  sysBpOld : Word
  sysBpNew : Word
  deriving DecidableEq, Repr

/-- The ROM services' parameters: the codes compared with a0 (R312) and the registers in which libumps
passes each service's own arguments, which the spec leaves to the call. -/
structure RomServices where
  ldstCode : Word
  forkCode : Word
  panicCode : Word
  haltCode : Word
  /-- register holding LDST's `statep` at the BREAK -/
  ldstPtr : RegIdx
  /-- register holding FORK's `entryhi` at the BREAK -/
  forkEntryHi : RegIdx
  /-- register holding FORK's `status` at the BREAK -/
  forkStatus : RegIdx
  /-- register holding FORK's `pc` at the BREAK -/
  forkPc : RegIdx
  /-- register holding FORK's `statep` at the BREAK -/
  forkPtr : RegIdx
  deriving DecidableEq, Repr

/-- Everything the architecture does not fix and a run does not change (R7, R8, R65): the model takes
it as an argument, carried in the state so that a statement about every state is about every
configuration. -/
structure Params where
  /-- `BIGENDIAN` (R86) -/
  bigEndian : Bool
  /-- `TLBSIZE`, 4 to 64 -/
  tlbSize : Nat
  /-- `RAMSIZE` in bytes -/
  ramSize : Nat
  /-- `ROMSIZE` in bytes -/
  romSize : Nat
  /-- `BOOTSIZE` in bytes -/
  bootSize : Nat
  /-- `TIMESCALE` (R382) -/
  timeScale : Word
  /-- `PRID` (R52) -/
  prid : Word
  /-- `INSTALLED[3]`, one bit a disk (R387) -/
  disks : BitVec 8
  /-- `INSTALLED[4]`, one bit a tape -/
  tapes : BitVec 8
  /-- `INSTALLED[6]`, one bit a printer -/
  printers : BitVec 8
  /-- `INSTALLED[7]`, one bit a terminal -/
  terminals : BitVec 8
  /-- `DISKGEOM` -/
  diskGeom : Vector DiskGeom 8
  /-- `EXECROM`: the image; a byte past its end is 0 up to `romSize` -/
  execRom : List Byte
  /-- `BOOTROM`: the image; a byte past its end is 0 up to `bootSize` -/
  bootRom : List Byte
  /-- `COREFILE` -/
  coreFile : List Byte
  /-- `LOADCOREFILE` -/
  loadCore : Bool
  /-- `TLBCLR_FUNCT` (R146) -/
  tlbclrFunct : BitVec 6
  /-- `INT_OLD` to `SYSBP_NEW` (R303) -/
  areas : StateAreas
  /-- `SRV_LDST` to `SRV_HALT` (R312) -/
  services : RomServices
  /-- false: the ROM is its bytes (level 1 of R300); true: the distributed ROM's routines are the
  macro-steps of the ROM contract (level 2) -/
  romContract : Bool
  /-- at level 2, whether the bootstrap ROM is TAPEBOOT (true) or COREBOOT (false) (R455) -/
  bootFromTape : Bool
  /-- where the loaded kernel has libumps' STST, if it is to be the model's (R331) -/
  stst : Option Word
  deriving DecidableEq, Repr

end Sys2Proof.Machine
end

