-- ==== Sys2Proof/Machine/Bits.lean ====
section
/-! DEFINITION. Bit fields, extensions and byte order: the helpers every other file of the machine uses. -/

namespace Sys2Proof.Machine

/-- `new` where `mask` is set, `old` elsewhere. -/
def mergeBits (mask new old : Word) : Word := (new &&& mask) ||| (old &&& ~~~mask)

/-- `sext_32` of a 16-bit immediate (R142). -/
def sext16 (imm : BitVec 16) : Word := imm.signExtend 32

/-- `zext_32` of a 16-bit immediate (R142). -/
def zext16 (imm : BitVec 16) : Word := imm.setWidth 32

/-- A branch offset: `sext_32(imm16) << 2` (R142). -/
def branchOffset (imm : BitVec 16) : Word := sext16 imm <<< 2

/-- A Bool as a 32-bit 0 or 1. -/
def boolWord (b : Bool) : Word := if b then 1#32 else 0#32

/-- The word made of the four bytes at a word's addresses in rising order (R87). -/
def wordOfBytes (bigEndian : Bool) (b0 b1 b2 b3 : Byte) : Word :=
  if bigEndian then b0 ++ b1 ++ b2 ++ b3 else b3 ++ b2 ++ b1 ++ b0

/-- The halfword made of the two bytes at a halfword's addresses in rising order (R87). -/
def halfOfBytes (bigEndian : Bool) (b0 b1 : Byte) : BitVec 16 :=
  if bigEndian then b0 ++ b1 else b1 ++ b0

/-- Byte `i` of a word in storage order, i = 0 at the word's own address (R87). -/
def byteOfWord (bigEndian : Bool) (w : Word) (i : Nat) : Byte :=
  if bigEndian then w.extractLsb' (24 - 8 * i) 8 else w.extractLsb' (8 * i) 8

/-- Byte `i` of a halfword in storage order (R87). -/
def byteOfHalf (bigEndian : Bool) (h : BitVec 16) (i : Nat) : Byte :=
  if bigEndian then h.extractLsb' (8 - 8 * i) 8 else h.extractLsb' (8 * i) 8

end Sys2Proof.Machine
end

