-- ==== Sys2Proof/Syntax.lean ====
section
/-! DEFINITION. The instructions: one constructor per row of spec/opcode_table.json, operands in
assembler order (R151), each as wide as its field (R141). -/

namespace Sys2Proof

/-- The µMPS instruction set (R143 to R147). -/
inductive Instr where
  -- 40_alu.md
  | add (rd rs rt : RegIdx)
  | addu (rd rs rt : RegIdx)
  | sub (rd rs rt : RegIdx)
  | subu (rd rs rt : RegIdx)
  | addi (rt rs : RegIdx) (imm : BitVec 16)
  | addiu (rt rs : RegIdx) (imm : BitVec 16)
  | and (rd rs rt : RegIdx)
  | or (rd rs rt : RegIdx)
  | xor (rd rs rt : RegIdx)
  | nor (rd rs rt : RegIdx)
  | andi (rt rs : RegIdx) (imm : BitVec 16)
  | ori (rt rs : RegIdx) (imm : BitVec 16)
  | xori (rt rs : RegIdx) (imm : BitVec 16)
  | lui (rt : RegIdx) (imm : BitVec 16)
  | slt (rd rs rt : RegIdx)
  | sltu (rd rs rt : RegIdx)
  | slti (rt rs : RegIdx) (imm : BitVec 16)
  | sltiu (rt rs : RegIdx) (imm : BitVec 16)
  | sll (rd rt : RegIdx) (shamt : BitVec 5)
  | srl (rd rt : RegIdx) (shamt : BitVec 5)
  | sra (rd rt : RegIdx) (shamt : BitVec 5)
  | sllv (rd rt rs : RegIdx)
  | srlv (rd rt rs : RegIdx)
  | srav (rd rt rs : RegIdx)
  -- 41_muldiv.md
  | mult (rs rt : RegIdx)
  | multu (rs rt : RegIdx)
  | div (rs rt : RegIdx)
  | divu (rs rt : RegIdx)
  | mfhi (rd : RegIdx)
  | mthi (rs : RegIdx)
  | mflo (rd : RegIdx)
  | mtlo (rs : RegIdx)
  -- 42_loadstore.md
  | lb (rt rs : RegIdx) (imm : BitVec 16)
  | lbu (rt rs : RegIdx) (imm : BitVec 16)
  | lh (rt rs : RegIdx) (imm : BitVec 16)
  | lhu (rt rs : RegIdx) (imm : BitVec 16)
  | lw (rt rs : RegIdx) (imm : BitVec 16)
  | sb (rt rs : RegIdx) (imm : BitVec 16)
  | sh (rt rs : RegIdx) (imm : BitVec 16)
  | lwl (rt rs : RegIdx) (imm : BitVec 16)
  | lwr (rt rs : RegIdx) (imm : BitVec 16)
  | swl (rt rs : RegIdx) (imm : BitVec 16)
  | swr (rt rs : RegIdx) (imm : BitVec 16)
  | sw (rt rs : RegIdx) (imm : BitVec 16)
  -- 43_control.md
  | j (target : BitVec 26)
  | jal (target : BitVec 26)
  | jr (rs : RegIdx)
  | jalr (rd rs : RegIdx)
  | beq (rs rt : RegIdx) (imm : BitVec 16)
  | bne (rs rt : RegIdx) (imm : BitVec 16)
  | blez (rs : RegIdx) (imm : BitVec 16)
  | bgtz (rs : RegIdx) (imm : BitVec 16)
  | bltz (rs : RegIdx) (imm : BitVec 16)
  | bgez (rs : RegIdx) (imm : BitVec 16)
  | bltzal (rs : RegIdx) (imm : BitVec 16)
  | bgezal (rs : RegIdx) (imm : BitVec 16)
  -- 44_system.md
  | syscall (code : BitVec 20)
  | brk (code : BitVec 20)
  | mfc0 (rt rd : RegIdx)
  | mtc0 (rt rd : RegIdx)
  | tlbwi
  | tlbwr
  | tlbr
  | tlbclr
  | tlbp
  | rfe
  | cop1 (any : BitVec 26)
  | cop2 (any : BitVec 26)
  | cop3 (any : BitVec 26)
  | lwc1 (any : BitVec 26)
  | lwc2 (any : BitVec 26)
  | lwc3 (any : BitVec 26)
  | swc1 (any : BitVec 26)
  | swc2 (any : BitVec 26)
  | swc3 (any : BitVec 26)
  deriving DecidableEq, Repr

end Sys2Proof
end

