-- ==== Sys2Proof/WellFormed.lean ====
section
/-! DEFINITION. What a well-formed instruction is, beyond the widths its operands' types fix. The checks
are the operand combinations the spec says a program does not use; the machine still decodes them. -/

namespace Sys2Proof

/-- The coprocessor 0 register numbers that name a register (R32). -/
def cp0Implemented (rd : RegIdx) : Bool :=
  rd = 0#5 || rd = 1#5 || rd = 2#5 || rd = 8#5 || rd = 10#5 || rd = 12#5 || rd = 13#5 || rd = 14#5 || rd = 15#5

/-- A well-formed instruction: JALR does not link into its own source ("not allowed by the architecture",
R259), BLTZAL and BGEZAL do not test $31 ("not allowed (not restartable)", R266), MFC0 and MTC0 name an
implemented register (R275, R276). Every other operand is well formed by its width. -/
def Instr.wf : Instr → Bool
  | .jalr rd rs => rd ≠ rs
  | .bltzal rs _ => rs ≠ 31#5
  | .bgezal rs _ => rs ≠ 31#5
  | .mfc0 _ rd => cp0Implemented rd
  | .mtc0 _ rd => cp0Implemented rd
  | _ => true

end Sys2Proof
end

