-- ==== Sys2Proof/Decode.lean ====
section
/-! DEFINITION. Decoding a word (R141 to R150) and, after it, encoding an instruction, both written from
the opcode maps of 30_encoding.md. `TLBCLR_FUNCT` is an argument of both (R146). -/

namespace Sys2Proof

/-- Why a word is no instruction. -/
inductive Reject where
  /-- no instruction matches: Reserved Instruction (R149) -/
  | reserved
  /-- no instruction matches, in an opcode of coprocessor 0: the usability test, then Reserved
  Instruction (R294) -/
  | cop0Reserved
  /-- an instruction's word with a non-zero unused field (R148) -/
  | unusedField
  /-- the same in coprocessor 0, where the usability test comes first (R148, R272) -/
  | cop0UnusedField
  deriving DecidableEq, Repr

/-! ### The fields of a word (R141) -/

def opOf (w : Word) : BitVec 6 := w.extractLsb' 26 6
def rsOf (w : Word) : RegIdx := w.extractLsb' 21 5
def rtOf (w : Word) : RegIdx := w.extractLsb' 16 5
def rdOf (w : Word) : RegIdx := w.extractLsb' 11 5
def shamtOf (w : Word) : BitVec 5 := w.extractLsb' 6 5
def functOf (w : Word) : BitVec 6 := w.extractLsb' 0 6
def immOf (w : Word) : BitVec 16 := w.extractLsb' 0 16
def targetOf (w : Word) : BitVec 26 := w.extractLsb' 0 26
def codeOf (w : Word) : BitVec 20 := w.extractLsb' 6 20

/-- The instruction if its unused fields are zero, else the rejection R148 names. -/
def ifUnusedZero (ok : Bool) (i : Instr) : Except Reject Instr :=
  if ok then .ok i else .error .unusedField

/-- SPECIAL, op 0x00: `funct` selects (R144). -/
def decodeSpecial (w : Word) : Except Reject Instr :=
  let rs := rsOf w
  let rt := rtOf w
  let rd := rdOf w
  let sh := shamtOf w
  match functOf w with
  | 0x00#6 => ifUnusedZero (rs = 0#5) (.sll rd rt sh)
  | 0x02#6 => ifUnusedZero (rs = 0#5) (.srl rd rt sh)
  | 0x03#6 => ifUnusedZero (rs = 0#5) (.sra rd rt sh)
  | 0x04#6 => ifUnusedZero (sh = 0#5) (.sllv rd rt rs)
  | 0x06#6 => ifUnusedZero (sh = 0#5) (.srlv rd rt rs)
  | 0x07#6 => ifUnusedZero (sh = 0#5) (.srav rd rt rs)
  | 0x08#6 => ifUnusedZero (rt = 0#5 && rd = 0#5 && sh = 0#5) (.jr rs)
  | 0x09#6 => ifUnusedZero (rt = 0#5 && sh = 0#5) (.jalr rd rs)
  | 0x0C#6 => .ok (.syscall (codeOf w))
  | 0x0D#6 => .ok (.brk (codeOf w))
  | 0x10#6 => ifUnusedZero (rs = 0#5 && rt = 0#5 && sh = 0#5) (.mfhi rd)
  | 0x11#6 => ifUnusedZero (rt = 0#5 && rd = 0#5 && sh = 0#5) (.mthi rs)
  | 0x12#6 => ifUnusedZero (rs = 0#5 && rt = 0#5 && sh = 0#5) (.mflo rd)
  | 0x13#6 => ifUnusedZero (rt = 0#5 && rd = 0#5 && sh = 0#5) (.mtlo rs)
  | 0x18#6 => ifUnusedZero (rd = 0#5 && sh = 0#5) (.mult rs rt)
  | 0x19#6 => ifUnusedZero (rd = 0#5 && sh = 0#5) (.multu rs rt)
  | 0x1A#6 => ifUnusedZero (rd = 0#5 && sh = 0#5) (.div rs rt)
  | 0x1B#6 => ifUnusedZero (rd = 0#5 && sh = 0#5) (.divu rs rt)
  | 0x20#6 => ifUnusedZero (sh = 0#5) (.add rd rs rt)
  | 0x21#6 => ifUnusedZero (sh = 0#5) (.addu rd rs rt)
  | 0x22#6 => ifUnusedZero (sh = 0#5) (.sub rd rs rt)
  | 0x23#6 => ifUnusedZero (sh = 0#5) (.subu rd rs rt)
  | 0x24#6 => ifUnusedZero (sh = 0#5) (.and rd rs rt)
  | 0x25#6 => ifUnusedZero (sh = 0#5) (.or rd rs rt)
  | 0x26#6 => ifUnusedZero (sh = 0#5) (.xor rd rs rt)
  | 0x27#6 => ifUnusedZero (sh = 0#5) (.nor rd rs rt)
  | 0x2A#6 => ifUnusedZero (sh = 0#5) (.slt rd rs rt)
  | 0x2B#6 => ifUnusedZero (sh = 0#5) (.sltu rd rs rt)
  | _ => .error .reserved

/-- REGIMM, op 0x01: `rt` selects (R145). -/
def decodeRegimm (w : Word) : Except Reject Instr :=
  match rtOf w with
  | 0x00#5 => .ok (.bltz (rsOf w) (immOf w))
  | 0x01#5 => .ok (.bgez (rsOf w) (immOf w))
  | 0x10#5 => .ok (.bltzal (rsOf w) (immOf w))
  | 0x11#5 => .ok (.bgezal (rsOf w) (immOf w))
  | _ => .error .reserved

/-- The operation a coprocessor 0 `funct` names, if any (R146). -/
def cop0Operation (tlbclrFunct funct : BitVec 6) : Option Instr :=
  match funct with
  | 0x01#6 => some .tlbr
  | 0x02#6 => some .tlbwi
  | 0x06#6 => some .tlbwr
  | 0x08#6 => some .tlbp
  | 0x10#6 => some .rfe
  | f => if f = tlbclrFunct then some .tlbclr else none

/-- COP0, op 0x10: bit 25 and `rs` select, then `funct` (R146, R294). -/
def decodeCop0 (tlbclrFunct : BitVec 6) (w : Word) : Except Reject Instr :=
  if w.getLsbD 25 then
    match cop0Operation tlbclrFunct (functOf w) with
    | some i => if w.extractLsb' 6 19 = 0#19 then .ok i else .error .cop0UnusedField
    | none => .error .cop0Reserved
  else
    match rsOf w with
    | 0x00#5 => if w.extractLsb' 0 11 = 0#11 then .ok (.mfc0 (rtOf w) (rdOf w)) else .error .cop0UnusedField
    | 0x04#5 => if w.extractLsb' 0 11 = 0#11 then .ok (.mtc0 (rtOf w) (rdOf w)) else .error .cop0UnusedField
    | _ => .error .cop0Reserved

/-- The instruction a word is, or why it is none (R143, R150). -/
def decode (tlbclrFunct : BitVec 6) (w : Word) : Except Reject Instr :=
  let rs := rsOf w
  let rt := rtOf w
  let imm := immOf w
  match opOf w with
  | 0x00#6 => decodeSpecial w
  | 0x01#6 => decodeRegimm w
  | 0x02#6 => .ok (.j (targetOf w))
  | 0x03#6 => .ok (.jal (targetOf w))
  | 0x04#6 => .ok (.beq rs rt imm)
  | 0x05#6 => .ok (.bne rs rt imm)
  | 0x06#6 => ifUnusedZero (rt = 0#5) (.blez rs imm)
  | 0x07#6 => ifUnusedZero (rt = 0#5) (.bgtz rs imm)
  | 0x08#6 => .ok (.addi rt rs imm)
  | 0x09#6 => .ok (.addiu rt rs imm)
  | 0x0A#6 => .ok (.slti rt rs imm)
  | 0x0B#6 => .ok (.sltiu rt rs imm)
  | 0x0C#6 => .ok (.andi rt rs imm)
  | 0x0D#6 => .ok (.ori rt rs imm)
  | 0x0E#6 => .ok (.xori rt rs imm)
  | 0x0F#6 => ifUnusedZero (rs = 0#5) (.lui rt imm)
  | 0x10#6 => decodeCop0 tlbclrFunct w
  | 0x11#6 => .ok (.cop1 (targetOf w))
  | 0x12#6 => .ok (.cop2 (targetOf w))
  | 0x13#6 => .ok (.cop3 (targetOf w))
  | 0x20#6 => .ok (.lb rt rs imm)
  | 0x21#6 => .ok (.lh rt rs imm)
  | 0x22#6 => .ok (.lwl rt rs imm)
  | 0x23#6 => .ok (.lw rt rs imm)
  | 0x24#6 => .ok (.lbu rt rs imm)
  | 0x25#6 => .ok (.lhu rt rs imm)
  | 0x26#6 => .ok (.lwr rt rs imm)
  | 0x28#6 => .ok (.sb rt rs imm)
  | 0x29#6 => .ok (.sh rt rs imm)
  | 0x2A#6 => .ok (.swl rt rs imm)
  | 0x2B#6 => .ok (.sw rt rs imm)
  | 0x2E#6 => .ok (.swr rt rs imm)
  | 0x30#6 => .error .cop0Reserved
  | 0x31#6 => .ok (.lwc1 (targetOf w))
  | 0x32#6 => .ok (.lwc2 (targetOf w))
  | 0x33#6 => .ok (.lwc3 (targetOf w))
  | 0x38#6 => .error .cop0Reserved
  | 0x39#6 => .ok (.swc1 (targetOf w))
  | 0x3A#6 => .ok (.swc2 (targetOf w))
  | 0x3B#6 => .ok (.swc3 (targetOf w))
  | _ => .error .reserved

/-- Decoding the four bytes of an instruction in storage order (R140). -/
def decodeBytes (bigEndian : Bool) (tlbclrFunct : BitVec 6) (b0 b1 b2 b3 : Byte) : Except Reject Instr :=
  decode tlbclrFunct (Machine.wordOfBytes bigEndian b0 b1 b2 b3)

/-- The byte order the host's table check lays words out in; the answer is the same for both. -/
def tableBigEndian : Bool := false

/-- The `TLBCLR_FUNCT` the host's table check and `State.reset` take: the table's row leaves those bits
zero. DESIGN CHOICE (log entry 5): R146 leaves it open, every statement holds for every value. -/
def tableTlbclrFunct : BitVec 6 := 0#6

/-- What the decoder reads from a table row's word: the word is laid out as the hardware stores it and
decoded from its bytes. -/
def decodeTableWord (nbits w : Nat) : Option Instr :=
  let v : Word := BitVec.ofNat 32 (w % 2 ^ nbits)
  let b := Machine.byteOfWord tableBigEndian v
  (decodeBytes tableBigEndian tableTlbclrFunct (b 0) (b 1) (b 2) (b 3)).toOption

/-! ### The encoder -/

/-- An R-format word (R141). -/
def rWord (op : BitVec 6) (rs rt rd : RegIdx) (shamt : BitVec 5) (funct : BitVec 6) : Word :=
  op ++ rs ++ rt ++ rd ++ shamt ++ funct

/-- An I-format word (R141). -/
def iWord (op : BitVec 6) (rs rt : RegIdx) (imm : BitVec 16) : Word := op ++ rs ++ rt ++ imm

/-- A J-format word (R141), and the shape of the coprocessor catch-alls (R147). -/
def jWord (op : BitVec 6) (target : BitVec 26) : Word := op ++ target

/-- A SPECIAL word. -/
def specialWord (rs rt rd : RegIdx) (shamt : BitVec 5) (funct : BitVec 6) : Word :=
  rWord 0x00#6 rs rt rd shamt funct

/-- SYSCALL and BREAK: bits 25:6 are one `code` field (R141). -/
def codeWord (code : BitVec 20) (funct : BitVec 6) : Word := (0x00#6 : BitVec 6) ++ code ++ funct

/-- A coprocessor 0 operation: bit 25 set, bits 24:6 zero (R146). -/
def cop0Word (funct : BitVec 6) : Word := rWord 0x10#6 0x10#5 0#5 0#5 0#5 funct

/-- The word of an instruction (R143 to R148). -/
def encode (tlbclrFunct : BitVec 6) : Instr → Word
  | .add rd rs rt => specialWord rs rt rd 0#5 0x20#6
  | .addu rd rs rt => specialWord rs rt rd 0#5 0x21#6
  | .sub rd rs rt => specialWord rs rt rd 0#5 0x22#6
  | .subu rd rs rt => specialWord rs rt rd 0#5 0x23#6
  | .addi rt rs imm => iWord 0x08#6 rs rt imm
  | .addiu rt rs imm => iWord 0x09#6 rs rt imm
  | .and rd rs rt => specialWord rs rt rd 0#5 0x24#6
  | .or rd rs rt => specialWord rs rt rd 0#5 0x25#6
  | .xor rd rs rt => specialWord rs rt rd 0#5 0x26#6
  | .nor rd rs rt => specialWord rs rt rd 0#5 0x27#6
  | .andi rt rs imm => iWord 0x0C#6 rs rt imm
  | .ori rt rs imm => iWord 0x0D#6 rs rt imm
  | .xori rt rs imm => iWord 0x0E#6 rs rt imm
  | .lui rt imm => iWord 0x0F#6 0#5 rt imm
  | .slt rd rs rt => specialWord rs rt rd 0#5 0x2A#6
  | .sltu rd rs rt => specialWord rs rt rd 0#5 0x2B#6
  | .slti rt rs imm => iWord 0x0A#6 rs rt imm
  | .sltiu rt rs imm => iWord 0x0B#6 rs rt imm
  | .sll rd rt sh => specialWord 0#5 rt rd sh 0x00#6
  | .srl rd rt sh => specialWord 0#5 rt rd sh 0x02#6
  | .sra rd rt sh => specialWord 0#5 rt rd sh 0x03#6
  | .sllv rd rt rs => specialWord rs rt rd 0#5 0x04#6
  | .srlv rd rt rs => specialWord rs rt rd 0#5 0x06#6
  | .srav rd rt rs => specialWord rs rt rd 0#5 0x07#6
  | .mult rs rt => specialWord rs rt 0#5 0#5 0x18#6
  | .multu rs rt => specialWord rs rt 0#5 0#5 0x19#6
  | .div rs rt => specialWord rs rt 0#5 0#5 0x1A#6
  | .divu rs rt => specialWord rs rt 0#5 0#5 0x1B#6
  | .mfhi rd => specialWord 0#5 0#5 rd 0#5 0x10#6
  | .mthi rs => specialWord rs 0#5 0#5 0#5 0x11#6
  | .mflo rd => specialWord 0#5 0#5 rd 0#5 0x12#6
  | .mtlo rs => specialWord rs 0#5 0#5 0#5 0x13#6
  | .lb rt rs imm => iWord 0x20#6 rs rt imm
  | .lbu rt rs imm => iWord 0x24#6 rs rt imm
  | .lh rt rs imm => iWord 0x21#6 rs rt imm
  | .lhu rt rs imm => iWord 0x25#6 rs rt imm
  | .lw rt rs imm => iWord 0x23#6 rs rt imm
  | .sb rt rs imm => iWord 0x28#6 rs rt imm
  | .sh rt rs imm => iWord 0x29#6 rs rt imm
  | .lwl rt rs imm => iWord 0x22#6 rs rt imm
  | .lwr rt rs imm => iWord 0x26#6 rs rt imm
  | .swl rt rs imm => iWord 0x2A#6 rs rt imm
  | .swr rt rs imm => iWord 0x2E#6 rs rt imm
  | .sw rt rs imm => iWord 0x2B#6 rs rt imm
  | .j t => jWord 0x02#6 t
  | .jal t => jWord 0x03#6 t
  | .jr rs => specialWord rs 0#5 0#5 0#5 0x08#6
  | .jalr rd rs => specialWord rs 0#5 rd 0#5 0x09#6
  | .beq rs rt imm => iWord 0x04#6 rs rt imm
  | .bne rs rt imm => iWord 0x05#6 rs rt imm
  | .blez rs imm => iWord 0x06#6 rs 0#5 imm
  | .bgtz rs imm => iWord 0x07#6 rs 0#5 imm
  | .bltz rs imm => iWord 0x01#6 rs 0x00#5 imm
  | .bgez rs imm => iWord 0x01#6 rs 0x01#5 imm
  | .bltzal rs imm => iWord 0x01#6 rs 0x10#5 imm
  | .bgezal rs imm => iWord 0x01#6 rs 0x11#5 imm
  | .syscall c => codeWord c 0x0C#6
  | .brk c => codeWord c 0x0D#6
  | .mfc0 rt rd => rWord 0x10#6 0x00#5 rt rd 0#5 0#6
  | .mtc0 rt rd => rWord 0x10#6 0x04#5 rt rd 0#5 0#6
  | .tlbwi => cop0Word 0x02#6
  | .tlbwr => cop0Word 0x06#6
  | .tlbr => cop0Word 0x01#6
  | .tlbclr => cop0Word tlbclrFunct
  | .tlbp => cop0Word 0x08#6
  | .rfe => cop0Word 0x10#6
  | .cop1 a => jWord 0x11#6 a
  | .cop2 a => jWord 0x12#6 a
  | .cop3 a => jWord 0x13#6 a
  | .lwc1 a => jWord 0x31#6 a
  | .lwc2 a => jWord 0x32#6 a
  | .lwc3 a => jWord 0x33#6 a
  | .swc1 a => jWord 0x39#6 a
  | .swc2 a => jWord 0x3A#6 a
  | .swc3 a => jWord 0x3B#6 a

/-- The operation numbers of the other coprocessor 0 instructions, which `TLBCLR_FUNCT` is not (R146). -/
def tlbclrFunctOk (f : BitVec 6) : Bool :=
  f ≠ 0x01#6 && f ≠ 0x02#6 && f ≠ 0x06#6 && f ≠ 0x08#6 && f ≠ 0x10#6

end Sys2Proof
end

