-- ==== Sys2Proof/Machine/Libumps.lean ====
section
/-! DEFINITION. STST, the routine of libumps that stores the processor state (R331): "library code ... a sequence of
MFC0 and SW instructions run in the caller's mode". -/

namespace Sys2Proof.Machine

/-- The word of a processor state that holds a general register (R302). -/
def stateWordOf (r : Nat) : Nat := if r ≤ 25 then r + 3 else r + 1

/-- `sll $0, $0, 0`, for a load delay slot. -/
def nopInstr : Instr := .sll 0#5 0#5 0#5

/-- A store of a register to word `i` of the state at `$a0`. -/
def storeStateWord (r : RegIdx) (i : Nat) : Instr := .sw r 4#5 (BitVec.ofNat 16 (4 * i))

/-- STST(statep) with `statep` in $a0: EntryHi, Cause and Status "as read by MFC0", 0 in the PC slot, the general
registers "as they are inside the routine", HI, LO, and the return (R331). Its own instructions are not in the
source: the scratch register is $v0. DESIGN CHOICE (log entry 35). -/
def ststCode : List Instr :=
  [.mfc0 2#5 10#5, nopInstr, storeStateWord 2#5 0, .mfc0 2#5 13#5, nopInstr, storeStateWord 2#5 1,
    .mfc0 2#5 12#5, nopInstr, storeStateWord 2#5 2, storeStateWord 0#5 3]
    ++ (((List.range 32).filter fun r => r ≠ 0 && r ≠ 26 && r ≠ 27).map fun r =>
        storeStateWord (BitVec.ofNat 5 r) (stateWordOf r))
    ++ [.mfhi 2#5, storeStateWord 2#5 33, .mflo 2#5, storeStateWord 2#5 34]
    ++ [.jr 31#5, nopInstr]

/-- The bytes STST takes. -/
def ststBytes : Nat := 4 * ststCode.length

end Sys2Proof.Machine
end

