-- ==== Sys2Proof/Machine/Memory.lean ====
section
/-! DEFINITION. Byte storage: RAM, both ROM images, a disk's blocks and a tape's blocks are lists of
(address, byte) pairs in one canonical form. -/

namespace Sys2Proof.Machine

/-- Byte storage. Canonical form (`Memory.wf`): addresses strictly rising, no entry that holds what an
unlisted address reads as. -/
abbrev Memory := List Host.Cell

/-- What an unlisted address reads as. DESIGN CHOICE (log entry 2), unsafe: the spec leaves the contents
of RAM and of an empty disk open (R60, R405). -/
def Memory.unlisted : Byte := 0#8

/-- The byte at an address. -/
def Memory.read : Memory → Nat → Byte
  | [], _ => Memory.unlisted
  | (k, v) :: rest, a => if k = a then v else Memory.read rest a

/-- The storage without an address. -/
def Memory.erase : Memory → Nat → Memory
  | [], _ => []
  | (k, v) :: rest, a => if k = a then Memory.erase rest a else (k, v) :: Memory.erase rest a

/-- A pair put in its place by address. -/
def Memory.insert : Memory → Nat → Byte → Memory
  | [], a, v => [(a, v)]
  | (k, w) :: rest, a, v => if a < k then (a, v) :: (k, w) :: rest else (k, w) :: Memory.insert rest a v

/-- The storage after a byte is written: writing what an unlisted address reads as removes the entry. -/
def Memory.write (m : Memory) (a : Nat) (v : Byte) : Memory :=
  if v = Memory.unlisted then Memory.erase m a else Memory.insert (Memory.erase m a) a v

/-- The canonical form. -/
def Memory.wf : Memory → Bool
  | [] => true
  | [(_, v)] => v ≠ Memory.unlisted
  | (k, v) :: (k', v') :: rest => v ≠ Memory.unlisted && k < k' && Memory.wf ((k', v') :: rest)

/-- The halfword at an address (R87). -/
def Memory.readHalf (be : Bool) (m : Memory) (a : Nat) : BitVec 16 :=
  halfOfBytes be (m.read a) (m.read (a + 1))

/-- The word at an address (R87). -/
def Memory.readWord (be : Bool) (m : Memory) (a : Nat) : Word :=
  wordOfBytes be (m.read a) (m.read (a + 1)) (m.read (a + 2)) (m.read (a + 3))

/-- A halfword stored at an address (R87). -/
def Memory.writeHalf (be : Bool) (m : Memory) (a : Nat) (h : BitVec 16) : Memory :=
  (m.write a (byteOfHalf be h 0)).write (a + 1) (byteOfHalf be h 1)

/-- A word stored at an address (R87). -/
def Memory.writeWord (be : Bool) (m : Memory) (a : Nat) (w : Word) : Memory :=
  (((m.write a (byteOfWord be w 0)).write (a + 1) (byteOfWord be w 1)).write (a + 2)
    (byteOfWord be w 2)).write (a + 3) (byteOfWord be w 3)

/-- Words stored at rising addresses (R87). -/
def storeWords (be : Bool) : List Word → Nat → Memory → Memory
  | [], _, m => m
  | w :: rest, a, m => storeWords be rest (a + 4) (m.writeWord be a w)

/-- The bytes of an image stored from an address upward (R456, R464). -/
def Memory.load : List Byte → Nat → Memory → Memory
  | [], _, m => m
  | b :: rest, a, m => Memory.load rest (a + 1) (m.write a b)

/-- The bytes `src + 4j` to `src + 4j + 3` of one storage copied to `dst + 4j` onward of another, for
every word number `j` below `n` that `moves` selects: "the bytes move ... address for address" (R399). -/
def Memory.copyWords (moves : Nat → Bool) (from_ : Memory) (src dst : Nat) : Nat → Memory → Memory
  | 0, m => m
  | j + 1, m =>
    let m' := Memory.copyWords moves from_ src dst j m
    if moves j then
      (((m'.write (dst + 4 * j) (from_.read (src + 4 * j))).write (dst + 4 * j + 1)
        (from_.read (src + 4 * j + 1))).write (dst + 4 * j + 2)
        (from_.read (src + 4 * j + 2))).write (dst + 4 * j + 3) (from_.read (src + 4 * j + 3))
    else m'

/-- The bytes `base` to `base + n - 1` that `inside` holds for, each overwritten by a value of `v`. -/
def Memory.scramble (v : Nat → Byte) (inside : Nat → Bool) (base : Nat) : Nat → Memory → Memory
  | 0, m => m
  | j + 1, m =>
    let m' := Memory.scramble v inside base j m
    if inside (base + j) then m'.write (base + j) (v j) else m'

end Sys2Proof.Machine
end

