-- ==== Sys2Proof/Machine/State.lean ====
section
/-! DEFINITION. The machine's state as plain data, the reasons a step stops, and the state after reset. -/

namespace Sys2Proof.Machine

/-- One TLB slot: a PTE in the formats of EntryHi and EntryLo (R57). -/
structure TlbEntry where
  hi : Word
  lo : Word
  deriving DecidableEq, Repr

/-- An operation in progress in a device (R63): its COMMAND and DATA0 as they were when it was accepted
(R408, R423), how many steps it has run, how many it will take, and the free-value counter at the moment it was
accepted. -/
structure Busy where
  command : Word
  data0 : Word
  elapsed : Nat
  total : Nat
  stamp : Nat
  deriving DecidableEq, Repr

/-- The registers and protocol state of one device, or of one half of a terminal (R395, R396). -/
structure DevReg where
  /-- STATUS, RECV_STATUS or TRANSM_STATUS -/
  status : Word
  /-- COMMAND, RECV_COMMAND or TRANSM_COMMAND -/
  command : Word
  /-- DATA0 (not used by a terminal) -/
  data0 : Word
  /-- the word the host put into DATA1 (R485), none while DATA1 shows what the device itself gives (not used by a
  terminal) -/
  data1 : Option Word
  /-- the interrupt pending bit (R62) -/
  pending : Bool
  /-- the operation in progress, none when idle -/
  busy : Option Busy
  /-- the host's simulated hardware failure switch (R402) -/
  failing : Bool
  deriving DecidableEq, Repr

/-- A disk (R405): its registers, the boom's cylinder and its blocks, byte `4096 * n + i` of the image
being byte `i` of block `n`. -/
structure Disk where
  reg : DevReg
  boom : Nat
  image : Memory
  deriving DecidableEq, Repr

/-- A tape block of 4096 bytes and whether the marker after it ends a file (R415). -/
structure TapeBlock where
  data : Memory
  endsFile : Bool
  deriving DecidableEq, Repr

/-- A tape (R415): its registers, the loaded cartridge if any, and the marker the head rests on. -/
structure Tape where
  reg : DevReg
  cartridge : Option (List TapeBlock)
  head : Nat
  deriving DecidableEq, Repr

/-- A printer and what it has printed (R421). -/
structure Printer where
  reg : DevReg
  output : List Byte
  deriving DecidableEq, Repr

/-- A terminal (R425): its two sub-devices, the typed input not yet received, and what its window shows, which is also
its log file. DESIGN CHOICE (log entry 37). -/
structure Terminal where
  recv : DevReg
  transm : DevReg
  input : List Byte
  output : List Byte
  deriving DecidableEq, Repr

/-- The texts ROM services end a run with (R495). -/
inductive RunEnd where
  | panic
  | halt
  deriving DecidableEq, Repr

/-- The device classes that can be installed (R2, R420). -/
inductive DevClass where
  | disk
  | tape
  | printer
  | terminal
  deriving DecidableEq, Repr

/-- A device's file as a changed configuration names it (R488). -/
inductive DeviceFile where
  /-- disk `dev`'s blocks, as in `Disk.image` -/
  | disk (dev : DevNo) (image : Memory)
  /-- the cartridge in tape `dev`, or none -/
  | tape (dev : DevNo) (cartridge : Option (List TapeBlock))
  /-- printer `dev`'s log file -/
  | printer (dev : DevNo) (printed : List Byte)
  /-- terminal `dev`'s log file -/
  | terminal (dev : DevNo) (shown : List Byte)
  deriving DecidableEq, Repr

/-- What the host can do to the machine between two steps: "change any register" among it (R6, R485, R415, R402,
R432, R450). -/
inductive HostAct where
  /-- "change any general register" -/
  | setGpr (r : RegIdx) (v : Word)
  | setHi (v : Word)
  | setLo (v : Word)
  /-- the emulator's "PC": `pc` (R28) -/
  | setPc (v : Word)
  /-- the emulator's "nextPC" -/
  | setNextPc (v : Word)
  /-- the emulator's "succPC": what `npc` will be after the step (R250) -/
  | setSuccPc (v : Word)
  /-- change a CP0 register, by its number -/
  | setCp0 (rd : RegIdx) (v : Word)
  | setTod (v : BitVec 64)
  | setTimer (v : Word)
  /-- "modify the contents of any word in RAM memory including the device registers" -/
  | setWord (pa : Word) (v : Word)
  | setTlbHi (k : BitVec 6) (v : Word)
  | setTlbLo (k : BitVec 6) (v : Word)
  /-- type a line at a terminal; the newline is added -/
  | typeLine (dev : DevNo) (line : List Byte)
  | loadTape (dev : DevNo) (blocks : List TapeBlock)
  | unloadTape (dev : DevNo)
  /-- switch a device's simulated hardware failure -/
  | setFailure (cls : DevClass) (dev : DevNo) (on : Bool)
  /-- reset, possibly to a changed configuration: its parameters and the device files it changes (R488) -/
  | reset (p : Params) (files : List DeviceFile)
  deriving DecidableEq, Repr

/-- The state of the machine. -/
structure State where
  /-- the configuration (R7, R8, R65); only the host's reset changes it -/
  params : Params
  /-- $0 to $31 (R20); $0 is read through `State.reg`, which answers 0 -/
  gpr : Vector Word 32
  /-- HI (R26) -/
  hi : Word
  /-- LO (R26) -/
  lo : Word
  /-- address of the instruction about to execute (R28) -/
  pc : Word
  /-- address of the instruction after it (R28) -/
  npc : Word
  /-- the host's change of succPC for the step to come, none without one (R485, R250) -/
  succPc : Option Word
  /-- whether the instruction at `pc` sits in a branch delay slot (R28) -/
  inslot : Bool
  /-- a load whose register write is not yet visible (R31) -/
  ldelay : Option (RegIdx × Word)
  /-- CP0 register 0 (R55) -/
  index : Word
  /-- CP0 register 1 (R56) -/
  random : Word
  /-- CP0 register 2 (R54) -/
  entryLo : Word
  /-- CP0 register 8 (R51) -/
  badVAddr : Word
  /-- CP0 register 10 (R53) -/
  entryHi : Word
  /-- CP0 register 12 (R33) -/
  status : Word
  /-- the stored fields of CP0 register 13: BD, CE, IP[1:0], ExcCode (R44, R46) -/
  cause : Word
  /-- CP0 register 14 (R50) -/
  epc : Word
  /-- the TLB; slots 0 to TLBSIZE-1 exist (R57) -/
  tlb : Vector TlbEntry 64
  /-- the bytes of RAM and of the two ROM images, by physical address (R60) -/
  mem : Memory
  /-- Time of Day clock (R383) -/
  tod : BitVec 64
  /-- Interval Timer (R384) -/
  timer : Word
  /-- the Interval Timer's pending bit (R386) -/
  timerPending : Bool
  disks : Vector Disk 8
  tapes : Vector Tape 8
  printers : Vector Printer 8
  terminals : Vector Terminal 8
  /-- whether a HALT or PANIC macro-step has been performed (R495) -/
  ended : Option RunEnd
  /-- the host's actions still to come: the first list is what it does before the next step -/
  inputs : List (List HostAct)
  /-- the free values' counter: the model's own field, advanced by every clock tick -/
  draws : Nat
  deriving DecidableEq, Repr

/-- Why the machine stops with a fault. It never does: the spec turns every failing access, encoding
and operation into an exception the machine takes ("never stops by itself", R495; "There is no
double-fault mechanism", R355), so the type is empty. -/
inductive Fault where
  deriving DecidableEq, Repr

/-- Where the model gives no meaning. Each is safe: the model stops where the hardware does something
the spec does not say. -/
inductive Refusal where
  /-- raised by `exec` for an instruction without a meaning (none is left) -/
  | notModelled (mnemonic : String)
  /-- a jump or branch in a branch delay slot (R253), raised by the twelve jumps and branches -/
  | branchInDelaySlot
  /-- a word with a non-zero unused field (R148), raised by the step -/
  | unusedFieldNonZero
  /-- MFC0 or MTC0 naming no implemented register (R275, R276) -/
  | noSuchCp0Register
  /-- TLBWI or TLBR with Index.TLB-Index beyond the TLB (R281, R283) -/
  | tlbIndexOutOfRange
  /-- a byte, halfword or partial-word access to the bus and device area (R92, item 29 of
  spec/93_implementation_defined.md), raised by loads and stores -/
  | subWordDeviceAccess
  /-- a configuration outside the ranges of R7 (R420, R453, R456), raised by the step -/
  | badConfiguration
  /-- level 2 only: a fetch of ROM code the ROM contract does not describe (R300, R325) -/
  | romCodeNotDescribed
  /-- level 2 only: LDST or FORK of a state that is misaligned or not in readable memory (R313, R321, D42) -/
  | romBadStatePointer
  /-- level 2 only: the ROM-Excpt handler entered with a code the hardware never writes (R45) -/
  | romUnknownCause
  /-- level 2 only: no RAM at 0x20001004, where the boot sequence reads the start address (R455, R93, R321) -/
  | bootProgramMissing
  /-- level 2 only: TAPEBOOT without a readable tape 0 (R455) -/
  | bootTapeUnusable
  deriving DecidableEq, Repr

/-- The outcome of a step or of an instruction. -/
abbrev Result := Host.Outcome State Fault Refusal

/-! ### Reset -/

/-- Devices and storage that survive a reset (R452). -/
structure Media where
  diskImages : Vector Memory 8
  cartridges : Vector (Option (List TapeBlock)) 8
  printed : Vector (List Byte) 8
  shown : Vector (List Byte) 8
  deriving DecidableEq, Repr

/-- Media of a machine never used: disks that read as 0, no cartridge, nothing printed. DESIGN CHOICE
(log entry 2): the spec leaves an empty disk's contents open (R405). -/
def Media.empty : Media :=
  { diskImages := Vector.replicate 8 []
    cartridges := Vector.replicate 8 none
    printed := Vector.replicate 8 []
    shown := Vector.replicate 8 [] }

/-- A device's registers after reset: Device Ready if installed, all zero if not (R397, R426). -/
def DevReg.reset (installed : Bool) : DevReg :=
  { status := if installed then 1#32 else 0#32
    command := 0#32
    data0 := 0#32
    data1 := none
    pending := false
    busy := none
    failing := false }

/-- The byte storage after reset: the two ROM images at their bases (R464), the core file at 0x20001000
when it is loaded (R456), and libumps' STST where the configuration puts it (R331, log entry 35). -/
def resetMemory (p : Params) : Memory :=
  let roms := Memory.load p.bootRom 0x1FC00000 (Memory.load p.execRom 0 [])
  let m := match p.stst with
    | some a => storeWords p.bigEndian (ststCode.map (encode p.tlbclrFunct)) a.toNat roms
    | none => roms
  if p.loadCore then Memory.load p.coreFile 0x20001000 m else m

/-- The eight devices of a class, each made by `f`. -/
def deviceBank {α : Type} (f : DevNo → α) : Vector α 8 :=
  #v[f 0, f 1, f 2, f 3, f 4, f 5, f 6, f 7]

/-- Reset (R66, R451) of a machine with configuration `p` and media `m`. Registers the spec gives no
reset value for hold 0: DESIGN CHOICE (log entry 1), unsafe. -/
def State.resetWith (p : Params) (m : Media) : State :=
  { params := p
    gpr := Vector.replicate 32 0#32
    hi := 0#32
    lo := 0#32
    pc := 0x1FC00000#32
    npc := 0x1FC00004#32
    succPc := none
    inslot := false
    ldelay := none
    index := 0#32
    random := BitVec.ofNat 32 (p.tlbSize - 1) <<< 8
    entryLo := 0#32
    badVAddr := 0#32
    entryHi := 0#32
    status := 0x10400000#32
    cause := 0#32
    epc := 0#32
    tlb := Vector.replicate 64 { hi := 0#32, lo := 0#32 }
    mem := resetMemory p
    tod := 0#64
    timer := 0xFFFFFFFF#32
    timerPending := false
    disks := deviceBank fun d =>
      { reg := DevReg.reset (p.disks.getLsbD d), boom := 0, image := m.diskImages[d] }
    tapes := deviceBank fun d =>
      { reg := DevReg.reset (p.tapes.getLsbD d), cartridge := m.cartridges[d], head := 0 }
    printers := deviceBank fun d =>
      { reg := DevReg.reset (p.printers.getLsbD d), output := m.printed[d] }
    terminals := deviceBank fun d =>
      { recv := DevReg.reset (p.terminals.getLsbD d), transm := DevReg.reset (p.terminals.getLsbD d),
        input := [], output := m.shown[d] }
    ended := none
    inputs := []
    draws := 0 }

/-- The state areas' default addresses (R303). -/
def StateAreas.default : StateAreas :=
  { intOld := 0x20000000#32, intNew := 0x2000008C#32
    tlbOld := 0x20000118#32, tlbNew := 0x200001A4#32
    pgmTrapOld := 0x20000230#32, pgmTrapNew := 0x200002BC#32
    sysBpOld := 0x20000348#32, sysBpNew := 0x200003D4#32 }

/-- Service codes and argument registers for `Params.default`. DESIGN CHOICE (log entry 5): R312 leaves
the codes open and says nothing of the registers. -/
def RomServices.default : RomServices :=
  { ldstCode := 1#32, forkCode := 2#32, panicCode := 3#32, haltCode := 4#32
    ldstPtr := 5#5
    forkEntryHi := 5#5, forkStatus := 6#5, forkPc := 7#5, forkPtr := 8#5 }

/-- The configuration `State.reset` takes. DESIGN CHOICE (log entry 5): every field is a parameter
(R7); statements hold for every value of each. -/
def Params.default : Params :=
  { bigEndian := tableBigEndian
    tlbSize := 16
    ramSize := 0x100000
    romSize := 0x1000
    bootSize := 0x1000
    timeScale := 1#32
    prid := 0#32
    disks := 1#8
    tapes := 1#8
    printers := 1#8
    terminals := 1#8
    diskGeom := Vector.replicate 8 { maxCyl := 32#16, maxHead := 2#8, maxSect := 8#8 }
    execRom := []
    bootRom := []
    coreFile := []
    loadCore := false
    tlbclrFunct := tableTlbclrFunct
    areas := StateAreas.default
    services := RomServices.default
    romContract := false
    bootFromTape := false
    stst := none }

/-- The machine right after reset (R66, R451), in the default configuration. -/
def State.reset : State := State.resetWith Params.default Media.empty

end Sys2Proof.Machine
end

