-- ==== Sys2Proof/Machine/ParamsCheck.lean ====
section
/-! DEFINITION. The configurations the spec allows (R7, R82, R303, R312): the step refuses any other. -/

namespace Sys2Proof.Machine

/-- RAMTOP, one past the last byte of RAM (R82). -/
def Params.ramTop (p : Params) : Nat := 0x20000000 + p.ramSize

/-- BOOTTOP (R82). -/
def Params.bootTop (p : Params) : Nat := 0x1FC00000 + p.bootSize

/-- DEVTOP, "0x100002D0" (R82). -/
def devTop : Nat := 0x100002D0

/-- The size of a processor state, 35 words (R302). -/
def stateBytes : Nat := 0x8C

/-- No two blocks of `stateBytes` bytes at these addresses overlap. -/
def disjointAreas : List Nat → Bool
  | [] => true
  | a :: rest => rest.all (fun b => a + stateBytes ≤ b || b + stateBytes ≤ a) && disjointAreas rest

/-- The eight state areas' addresses. -/
def StateAreas.list (a : StateAreas) : List Word :=
  [a.intOld, a.intNew, a.tlbOld, a.tlbNew, a.pgmTrapOld, a.pgmTrapNew, a.sysBpOld, a.sysBpNew]

/-- "word-aligned, disjoint" blocks inside 0x20000000 to 0x200004FF (R303, D14). -/
def StateAreas.wf (a : StateAreas) : Bool :=
  a.list.all (fun x => x.toNat % 4 = 0 && 0x20000000 ≤ x.toNat && x.toNat + stateBytes ≤ 0x20000500)
    && disjointAreas (a.list.map BitVec.toNat)

/-- "four distinct 32-bit values" (R312). -/
def RomServices.wf (v : RomServices) : Bool :=
  v.ldstCode ≠ v.forkCode && v.ldstCode ≠ v.panicCode && v.ldstCode ≠ v.haltCode
    && v.forkCode ≠ v.panicCode && v.forkCode ≠ v.haltCode && v.panicCode ≠ v.haltCode

/-- A disk geometry with at least one block (R7). -/
def DiskGeom.wf (g : DiskGeom) : Bool := g.maxCyl ≠ 0#16 && g.maxHead ≠ 0#8 && g.maxSect ≠ 0#8

/-- Room for STST in RAM above the ROM Reserved Frame (R331). -/
def Params.ststOk (p : Params) : Bool :=
  match p.stst with
  | some a => a.toNat % 4 = 0 && 0x20001000 ≤ a.toNat && a.toNat + ststBytes ≤ p.ramTop
  | none => true

/-- The configurations of R7 and R8. -/
def Params.wf (p : Params) : Bool :=
  4 ≤ p.tlbSize && p.tlbSize ≤ 64
    && 4096 ≤ p.ramSize && p.ramSize ≤ 0xE0000000 && p.ramSize % 4096 = 0
    && p.romSize ≤ 0x10000000 && p.romSize % 4 = 0
    && 4 ≤ p.bootSize && p.bootSize ≤ 0x400000 && p.bootSize % 4 = 0
    && p.timeScale ≠ 0#32
    && p.execRom.length ≤ p.romSize && p.bootRom.length ≤ p.bootSize
    && (!p.loadCore || p.coreFile.length + 4096 ≤ p.ramSize)
    && (p.diskGeom.toList.all DiskGeom.wf)
    && tlbclrFunctOk p.tlbclrFunct
    && p.areas.wf && p.services.wf && p.ststOk

end Sys2Proof.Machine
end

