-- ==== Sys2Proof/Machine/Ops.lean ====
section
/-! DEFINITION. The operations every instruction shares: register access under the load delay rule, the
end of an instruction's step, taking an exception and the return from one. -/

namespace Sys2Proof.Machine

/-! ### General registers (R21, R226) -/

/-- The stored value of a general register: $0 reads as 0 (R21). -/
def State.reg (s : State) (r : RegIdx) : Word :=
  if r = 0#5 then 0#32 else s.gpr[r.toNat]'r.isLt

/-- A register file after a write, which $0 ignores (R21). -/
def setReg (gpr : Vector Word 32) (r : RegIdx) (v : Word) : Vector Word 32 :=
  if r = 0#5 then gpr else gpr.set r.toNat v r.isLt

/-- Whether a load into `r` is not yet visible (R31). -/
def State.delayed (s : State) (r : RegIdx) : Bool :=
  match s.ldelay with
  | some (q, _) => q = r
  | none => false

/-- An operand register read: in the slot after a load into it the value is open (R226). $0 is never
delayed. -/
def State.operand (s : State) (slot : FreeSlot) (r : RegIdx) : Word :=
  if r = 0#5 then 0#32
  else if s.delayed r then Config.freeWord slot s.draws
  else s.reg r

/-- The first source operand `x[rs]`. -/
def State.rs (s : State) (r : RegIdx) : Word := s.operand .operandRs r

/-- The second source operand `x[rt]`. -/
def State.rt (s : State) (r : RegIdx) : Word := s.operand .operandRt r

/-- What LWL and LWR merge into: the pending value of `r` if there is one, else the register (R236). -/
def State.forwarded (s : State) (r : RegIdx) : Word :=
  match s.ldelay with
  | some (q, v) => if q = r then v else s.reg r
  | none => s.reg r

/-! ### The end of a step (R250 phases 4 to 7, R226) -/

/-- What an instruction leaves for the end of its step. -/
structure Retire where
  /-- a general register written at once -/
  write : Option (RegIdx × Word) := none
  /-- a load result, visible after the next instruction -/
  load : Option (RegIdx × Word) := none
  /-- `pc <- t` of a jump or taken branch: the address after the delay slot -/
  target : Option Word := none
  /-- a jump or branch, taken or not -/
  branch : Bool := false
  deriving DecidableEq, Repr

/-- A register file after an optional write. -/
def writeOpt (gpr : Vector Word 32) : Option (RegIdx × Word) → Vector Word 32
  | none => gpr
  | some (r, v) => setReg gpr r v

/-- A new load delay: nothing for $0 (R226). -/
def newDelay : Option (RegIdx × Word) → Option (RegIdx × Word)
  | none => none
  | some (r, v) => if r = 0#5 then none else some (r, v)

/-- The pending load that reaches its register at the end of a step whose own load is `load`: dropped
when that load is into the same register (R226). -/
def landing (pending load : Option (RegIdx × Word)) : Option (RegIdx × Word) :=
  match pending, load with
  | some (r, v), some (q, _) => if q = r then none else some (r, v)
  | p, none => p
  | none, _ => none

/-- The emulator's succPC, what `npc` is after a step that does not jump: `npc` + 4, or what the host made of it
(R28, R250, R485; log entry 13). -/
def State.succ (s : State) : Word := s.succPc.getD (s.npc + 4#32)

/-- The end of an instruction's step: the pending load lands unless a later write or load of the same
register replaces it, and the program counter moves on (R250 phases 6 and 7, R226). -/
def State.retire (s : State) (e : Retire) : State :=
  { s with
    gpr := writeOpt (writeOpt s.gpr (landing s.ldelay e.load)) e.write
    ldelay := newDelay e.load
    pc := s.npc
    npc := e.target.getD s.succ
    succPc := none
    inslot := e.branch }

/-- The end of a step that raised an exception: "the pending write still happens" (R226). -/
def State.commitLoad (s : State) : State :=
  { s with gpr := writeOpt s.gpr s.ldelay, ldelay := none }

/-! ### Status (R33) -/

/-- Bit 1: user-mode (R35). -/
def State.userMode (s : State) : Bool := s.status.getLsbD 1

/-- Bit 0: interrupts enabled (R34). -/
def State.interruptsOn (s : State) : Bool := s.status.getLsbD 0

/-- Bit 24: VM on (R39). -/
def State.vmOn (s : State) : Bool := s.status.getLsbD 24

/-- Bit 22: bootstrap exception vectors (R38). -/
def State.bev (s : State) : Bool := s.status.getLsbD 22

/-- Bit 28: CU[0] (R40). -/
def State.cu0 (s : State) : Bool := s.status.getLsbD 28

/-- EntryHi.ASID (R53). -/
def asidOf (hi : Word) : BitVec 6 := hi.extractLsb' 6 6

/-- EntryHi.SEGNO and EntryHi.VPN, and those of a virtual address (R53, R100). -/
def pageOf (w : Word) : BitVec 20 := w.extractLsb' 12 20

/-- The push of the KU/IE and VM stacks (R352). -/
def pushStacks (st : Word) : Word :=
  mergeBits 0x0000003F#32 ((st &&& 0x0000000F#32) <<< 2)
    (mergeBits 0x07000000#32 ((st &&& 0x03000000#32) <<< 1) st)

/-- The pop of both stacks, the old bits unchanged (R290). -/
def popStacks (st : Word) : Word :=
  mergeBits 0x0000000F#32 ((st &&& 0x0000003C#32) >>> 2)
    (mergeBits 0x03000000#32 ((st &&& 0x06000000#32) >>> 1) st)

/-! ### Taking an exception (R350 to R356) -/

/-- What the hardware raises (R341), each with what its entry records. -/
inductive Exc where
  | int
  | mod (va : Word)
  | tlbl (va : Word)
  | tlbs (va : Word)
  /-- a TLB-Refill event on a load or fetch (R356) -/
  | refillL (va : Word)
  /-- a TLB-Refill event on a store (R356) -/
  | refillS (va : Word)
  | adel (va : Word)
  | ades (va : Word)
  | ibe
  | dbe
  | sys
  | bp
  | ri
  | cpu (z : BitVec 2)
  | ov
  deriving DecidableEq, Repr

/-- Cause.ExcCode (R341). -/
def Exc.code : Exc → BitVec 5
  | .int => 0#5
  | .mod _ => 1#5
  | .tlbl _ => 2#5
  | .refillL _ => 2#5
  | .tlbs _ => 3#5
  | .refillS _ => 3#5
  | .adel _ => 4#5
  | .ades _ => 5#5
  | .ibe => 6#5
  | .dbe => 7#5
  | .sys => 8#5
  | .bp => 9#5
  | .ri => 10#5
  | .cpu _ => 11#5
  | .ov => 12#5

/-- The address loaded into BadVAddr (R353). -/
def Exc.badAddr : Exc → Option Word
  | .mod va => some va
  | .tlbl va => some va
  | .tlbs va => some va
  | .refillL va => some va
  | .refillS va => some va
  | .adel va => some va
  | .ades va => some va
  | _ => none

/-- The address whose SEGNO and VPN are loaded into EntryHi (R353). -/
def Exc.tlbAddr : Exc → Option Word
  | .mod va => some va
  | .tlbl va => some va
  | .tlbs va => some va
  | .refillL va => some va
  | .refillS va => some va
  | _ => none

/-- A TLB-Refill event, which has its own vectors (R356). -/
def Exc.isRefill : Exc → Bool
  | .refillL _ => true
  | .refillS _ => true
  | _ => false

/-- The vectors (R354). -/
def vectorOf (bev : Bool) (e : Exc) : Word :=
  match bev, e.isRefill with
  | true, false => 0x1FC00180#32
  | false, false => 0x00000080#32
  | true, true => 0x1FC00100#32
  | false, true => 0x00000000#32

/-- Cause after an entry: ExcCode and BD always, CE on a Coprocessor Unusable exception. On any other
exception CE keeps its value, which R48 lets a model choose. DESIGN CHOICE (log entry 6), unsafe. -/
def causeAfter (cause : Word) (inslot : Bool) (e : Exc) : Word :=
  let c1 := mergeBits 0x0000007C#32 (e.code.setWidth 32 <<< 2) cause
  let c2 := mergeBits 0x80000000#32 (boolWord inslot <<< 31) c1
  match e with
  | .cpu z => mergeBits 0x30000000#32 (z.setWidth 32 <<< 28) c2
  | _ => c2

/-- EntryHi after an entry: SEGNO and VPN of the failing address, the rest kept (R353). -/
def entryHiAfter (entryHi : Word) (e : Exc) : Word :=
  match e.tlbAddr with
  | some va => mergeBits 0xFFFFF000#32 va entryHi
  | none => entryHi

/-- Exception entry (R350): EPC and BD from the instruction at `pc` (R351), ExcCode, the push (R352), the
additional registers (R353), the vector (R354, R356). -/
def State.takeException (s : State) (e : Exc) : State :=
  { s with
    epc := if s.inslot then s.pc - 4#32 else s.pc
    cause := causeAfter s.cause s.inslot e
    status := pushStacks s.status
    badVAddr := e.badAddr.getD s.badVAddr
    entryHi := entryHiAfter s.entryHi e
    pc := vectorOf s.bev e
    npc := vectorOf s.bev e + 4#32
    succPc := none
    inslot := false }

/-- The return from exception the hardware offers: RFE's pop, "no other bit of Status and no other
register changes" (R290). -/
def State.returnFromException (s : State) : State := { s with status := popStacks s.status }

/-- `raise E` in an instruction or a fetch: the entry, and the pending load lands (R226, R250). -/
def raise (e : Exc) (s : State) : Result := .next (s.takeException e).commitLoad

/-! ### Coprocessor usability (R272) -/

/-- `usable(0)`. -/
def State.cop0Usable (s : State) : Bool := !s.userMode || s.cu0

/-- An instruction of coprocessor 0: "The test precedes everything else about the instruction" (R272). -/
def ifCop0Usable (s : State) (k : Result) : Result :=
  if s.cop0Usable then k else raise (.cpu 0#2) s

end Sys2Proof.Machine
end

