-- ==== Sys2Proof/Machine/Devices.lean ====
section
/-! DEFINITION. Device registers (R395 to R434): the command protocol, what a load of a field shows, and
the controllers' own steps, DMA among them. -/

namespace Sys2Proof.Machine

/-- The devices of a class. -/
def allDevs : List DevNo := [0, 1, 2, 3, 4, 5, 6, 7]

/-- The free values' unit numbers: the class's interrupt line (R363); a terminal's receiver takes 8. -/
def diskUnit : Nat := 3
def tapeUnit : Nat := 4
def printerUnit : Nat := 6
def transmUnit : Nat := 7
def recvUnit : Nat := 8

/-- The command code, COMMAND[7:0] (R401). -/
def commandCode (v : Word) : BitVec 8 := v.extractLsb' 0 8

/-! ### The protocol (R396) -/

/-- How long an operation accepted now takes: any number of steps, the next instruction still finding the
device busy (R403, R470). -/
def operationLength (unit : Nat) (d : DevNo) (draws : Nat) : Nat :=
  2 + Config.freeNat (.deviceDelay unit d) draws

/-- A store to COMMAND of an installed device (R396). `lastOp` is the class's highest operation code,
`mark` what the status word holds besides its code. A busy device ignores the store (R398). -/
def DevReg.issue (lastOp : Nat) (mark : Word) (total stamp : Nat) (v : Word) (r : DevReg) : DevReg :=
  if r.busy.isSome then r
  else if (commandCode v).toNat ≤ 1 then
    { r with command := v, pending := false, status := mark ||| 1#32 }
  else if (commandCode v).toNat ≤ lastOp then
    { r with command := v, pending := false, status := mark ||| 3#32
             busy := some { command := v, data0 := r.data0, elapsed := 0, total := total, stamp := stamp } }
  else
    { r with command := v, pending := true, status := mark ||| 2#32 }

/-- A store to DATA0 of an installed device (R398, R401). -/
def DevReg.setData0 (v : Word) (r : DevReg) : DevReg :=
  if r.busy.isSome then r else { r with data0 := v }

/-- A RESET that is accepted, which also moves the mechanism (R400). -/
def DevReg.resets (r : DevReg) (v : Word) : Bool := r.busy.isNone && commandCode v = 0#8

/-- The completion of an operation: status code, interrupt, idle (R396). -/
def DevReg.complete (status : Word) (r : DevReg) : DevReg :=
  { r with status := status, pending := true, busy := none }

/-- One more step of an operation that is not complete. -/
def DevReg.progress (b : Busy) (elapsed : Nat) (r : DevReg) : DevReg :=
  { r with busy := some { b with elapsed := elapsed } }

/-- The character field of a terminal status whose code is not 5 is open (R427). -/
def termMark (unit : Nat) (d : DevNo) (draws : Nat) : Word :=
  (Config.freeWord (.termChar unit d) draws &&& 0x000000FF#32) <<< 8

/-! ### Loads of a device's words -/

/-- Disk DATA1, the geometry (R406). -/
def DiskGeom.word (g : DiskGeom) : Word := g.maxCyl ++ g.maxHead ++ g.maxSect

/-- The code of tape marker `p` (R415, R416): TS before the first block, EOT after the last. -/
def markerCode (blocks : List TapeBlock) (p : Nat) : Word :=
  match p with
  | 0 => 3#32
  | p + 1 =>
    if blocks.length ≤ p + 1 then 0#32
    else match blocks[p]? with
      | some b => if b.endsFile then 1#32 else 2#32
      | none => 0#32

/-- Tape DATA1 as the device gives it: the marker when idle, open while busy, EOT without a cartridge (R416). -/
def Tape.marker (t : Tape) (d : DevNo) (draws : Nat) : Word :=
  match t.cartridge with
  | none => 0#32
  | some blocks =>
    if t.reg.busy.isSome then Config.freeWord (.tapeMarker d) draws else markerCode blocks t.head

/-- DATA1 as a load shows it: the word the host put there (R485), else the device's own. -/
def DevReg.data1Read (own : Word) (r : DevReg) : Word := r.data1.getD own

/-- A load of word `field` of device `d` of the line numbered `line` (R395); an uninstalled device reads
zero (R397), as every network slot does (R420). -/
def State.readDevice (s : State) (line : Nat) (d : DevNo) (field : Nat) : Word :=
  match line with
  | 3 =>
    if s.params.disks.getLsbD d then
      match field with
      | 0 => s.disks[d].reg.status
      | 1 => s.disks[d].reg.command
      | 2 => s.disks[d].reg.data0
      | _ => s.disks[d].reg.data1Read s.params.diskGeom[d].word
    else 0#32
  | 4 =>
    if s.params.tapes.getLsbD d then
      match field with
      | 0 => s.tapes[d].reg.status
      | 1 => s.tapes[d].reg.command
      | 2 => s.tapes[d].reg.data0
      | _ => s.tapes[d].reg.data1Read (s.tapes[d].marker d s.draws)
    else 0#32
  | 6 =>
    if s.params.printers.getLsbD d then
      match field with
      | 0 => s.printers[d].reg.status
      | 1 => s.printers[d].reg.command
      | 2 => s.printers[d].reg.data0
      | _ => s.printers[d].reg.data1Read 0#32
    else 0#32
  | 7 =>
    if s.params.terminals.getLsbD d then
      match field with
      | 0 => s.terminals[d].recv.status
      | 1 => s.terminals[d].recv.command
      | 2 => s.terminals[d].transm.status
      | _ => s.terminals[d].transm.command
    else 0#32
  | _ => 0#32

/-! ### Stores to a device's words -/

/-- A device of a bank replaced. -/
def setDev {α : Type} (bank : Vector α 8) (d : DevNo) (x : α) : Vector α 8 := bank.set d.val x d.isLt

/-- A store to a word of disk `d` (R405 to R409). -/
def State.writeDisk (s : State) (d : DevNo) (field : Nat) (v : Word) : State :=
  let k := s.disks[d]
  match field with
  | 1 =>
    let k' : Disk :=
      { k with reg := k.reg.issue 4 0#32 (operationLength diskUnit d s.draws) s.draws v,
                 boom := if k.reg.resets v then 0 else k.boom }
    { s with disks := setDev s.disks d k' }
  | 2 => { s with disks := setDev s.disks d { k with reg := k.reg.setData0 v } }
  | _ => s

/-- DATA1 written anew by the device, whatever the host put there. -/
def DevReg.freshData1 (r : DevReg) : DevReg := { r with data1 := none }

/-- A store to COMMAND of a tape with a cartridge. A RESET writes DATA1 anew (R418), and an operation makes it open
(R416); every other store leaves it. -/
def DevReg.issueTape (total stamp : Nat) (v : Word) (r : DevReg) : DevReg :=
  let r' := r.issue 4 0#32 total stamp v
  if r.resets v || (r.busy.isNone && r'.busy.isSome) then r'.freshData1 else r'

/-- A store to a word of tape `d`; without a cartridge COMMAND "will not accept any commands" (R416). -/
def State.writeTape (s : State) (d : DevNo) (field : Nat) (v : Word) : State :=
  let k := s.tapes[d]
  match field with
  | 1 =>
    if k.cartridge.isNone then s
    else
      let k' : Tape :=
        { k with reg := k.reg.issueTape (operationLength tapeUnit d s.draws) s.draws v,
                   head := if k.reg.resets v then 0 else k.head }
      { s with tapes := setDev s.tapes d k' }
  | 2 => { s with tapes := setDev s.tapes d { k with reg := k.reg.setData0 v } }
  | _ => s

/-- A store to a word of printer `d` (R421 to R423). -/
def State.writePrinter (s : State) (d : DevNo) (field : Nat) (v : Word) : State :=
  let k := s.printers[d]
  match field with
  | 1 =>
    let k' : Printer :=
      { k with reg := k.reg.issue 2 0#32 (operationLength printerUnit d s.draws) s.draws v }
    { s with printers := setDev s.printers d k' }
  | 2 => { s with printers := setDev s.printers d { k with reg := k.reg.setData0 v } }
  | _ => s

/-- A store to a word of terminal `d`: two sub-devices, each with its own COMMAND (R425, R428). -/
def State.writeTerminal (s : State) (d : DevNo) (field : Nat) (v : Word) : State :=
  let k := s.terminals[d]
  match field with
  | 1 =>
    let k' : Terminal :=
      { k with recv := k.recv.issue 2 (termMark recvUnit d s.draws)
                           (operationLength recvUnit d s.draws) s.draws v }
    { s with terminals := setDev s.terminals d k' }
  | 3 =>
    let k' : Terminal :=
      { k with transm := k.transm.issue 2 (termMark transmUnit d s.draws)
                             (operationLength transmUnit d s.draws) s.draws v }
    { s with terminals := setDev s.terminals d k' }
  | _ => s

/-- A store to word `field` of device `d` of a line; an uninstalled device ignores it (R398). -/
def State.writeDevice (s : State) (line : Nat) (d : DevNo) (field : Nat) (v : Word) : State :=
  match line with
  | 3 => if s.params.disks.getLsbD d then s.writeDisk d field v else s
  | 4 => if s.params.tapes.getLsbD d then s.writeTape d field v else s
  | 6 => if s.params.printers.getLsbD d then s.writePrinter d field v else s
  | 7 => if s.params.terminals.getLsbD d then s.writeTerminal d field v else s
  | _ => s

/-! ### Interrupt lines (R46, R388, R434) -/

/-- One bit a device. -/
def bankBits (f : DevNo → Bool) : Word :=
  boolWord (f 0) ||| boolWord (f 1) <<< 1 ||| boolWord (f 2) <<< 2 ||| boolWord (f 3) <<< 3
    ||| boolWord (f 4) <<< 4 ||| boolWord (f 5) <<< 5 ||| boolWord (f 6) <<< 6 ||| boolWord (f 7) <<< 7

/-- The Interrupting Devices Bit Map's word of a line (R388). -/
def State.pendingMap (s : State) (line : Nat) : Word :=
  match line with
  | 3 => bankBits fun d => s.disks[d].reg.pending
  | 4 => bankBits fun d => s.tapes[d].reg.pending
  | 6 => bankBits fun d => s.printers[d].reg.pending
  | 7 => bankBits fun d => s.terminals[d].recv.pending || s.terminals[d].transm.pending
  | _ => 0#32

/-- Whether some device of a line has an interrupt pending (R46). -/
def State.linePending (s : State) (line : Nat) : Bool := s.pendingMap line ≠ 0#32

/-- Cause.IP[7:2] in place, from the lines' present state (R46, R386). -/
def State.liveIp (s : State) : Word :=
  boolWord s.timerPending <<< 10 ||| boolWord (s.linePending 3) <<< 11
    ||| boolWord (s.linePending 4) <<< 12 ||| boolWord (s.linePending 5) <<< 13
    ||| boolWord (s.linePending 6) <<< 14 ||| boolWord (s.linePending 7) <<< 15

/-- Cause as it reads: the stored fields and the live lines, unnamed bits 0 (R44, R46). -/
def State.causeRead (s : State) : Word := (s.cause &&& 0xB000037C#32) ||| s.liveIp

/-- The interrupt test (R362). -/
def State.interruptTaken (s : State) : Bool :=
  s.interruptsOn && (s.causeRead &&& s.status &&& 0x0000FF00#32) ≠ 0#32

/-! ### DMA (R125, R399) -/

/-- "a block ... wholly inside installed RAM" at a multiple of 4 (R399). -/
def dmaInRam (p : Params) (a : Word) : Bool :=
  a.toNat % 4 = 0 && 0x20000000 ≤ a.toNat && a.toNat + 4096 ≤ p.ramTop

/-- The step of an operation at which word `j` of its block moves, if the operation lasts that long: open
(R125). -/
def dmaStep (unit : Nat) (d : DevNo) (b : Busy) (j : Nat) : Nat :=
  1 + Config.freeNat (.dmaTime unit d j) b.stamp

/-- The words that move at step `e` of an operation: those whose step it is; at its last step, all that
are left. -/
def dmaMoves (unit : Nat) (d : DevNo) (b : Busy) (e : Nat) (j : Nat) : Bool :=
  if b.total ≤ e then b.total ≤ dmaStep unit d b j else dmaStep unit d b j = e

/-- Open bytes, for a block whose transfer ended in error (R399, R410). -/
def garbage (unit : Nat) (d : DevNo) (b : Busy) (j : Nat) : Byte :=
  (Config.freeWord (.dmaGarbage unit d j) b.stamp).setWidth 8

/-- RAM after a failed transfer into the 4096 bytes at `a`: those that exist are open (R399). -/
def scrambleRam (p : Params) (v : Nat → Byte) (a : Word) (m : Memory) : Memory :=
  Memory.scramble v (fun x => 0x20000000 ≤ x && x < p.ramTop) a.toNat 4096 m

/-! ### Controllers -/

/-- The byte offset in a disk's image of the block that a READBLK or WRITEBLK `command` names with the boom at
cylinder `boom`, if it is one (R405, R409). The order of the blocks in an image is not in the source; it shows only
when a reset changes the geometry. DESIGN CHOICE (log entry 15). -/
def diskBlock (g : DiskGeom) (boom : Nat) (command : Word) : Option Nat :=
  let head := (command.extractLsb' 16 8).toNat
  let sect := (command.extractLsb' 8 8).toNat
  if head < g.maxHead.toNat && sect < g.maxSect.toNat then
    some (((boom * g.maxHead.toNat + head) * g.maxSect.toNat + sect) * 4096)
  else none

/-- The words of disk `d`'s transfer that move at step `e`: the operation's own COMMAND and DATA0, sampled when it
was accepted (R408). -/
def State.diskMoves (s : State) (d : DevNo) (b : Busy) (e : Nat) : State :=
  let k := s.disks[d]
  match diskBlock s.params.diskGeom[d] k.boom b.command with
  | none => s
  | some off =>
    if dmaInRam s.params b.data0 then
      if commandCode b.command = 3#8 then
        { s with mem := Memory.copyWords (dmaMoves diskUnit d b e) k.image off b.data0.toNat 1024 s.mem }
      else if commandCode b.command = 4#8 then
        let k' : Disk :=
          { k with image := Memory.copyWords (dmaMoves diskUnit d b e) s.mem b.data0.toNat off 1024 k.image }
        { s with disks := setDev s.disks d k' }
      else s
    else s

/-- Disk `d`'s registers at the end of an operation. -/
def State.endDisk (s : State) (d : DevNo) (status : Word) : State :=
  let k := s.disks[d]
  { s with disks := setDev s.disks d { k with reg := k.reg.complete status } }

/-- The end of a SEEKCYL: the boom at CYLNUM = COMMAND[23:8] (R409, R410). -/
def State.endSeek (s : State) (d : DevNo) (b : Busy) : State :=
  let k := s.disks[d]
  let maxCyl := s.params.diskGeom[d].maxCyl.toNat
  let cyl := (b.command.extractLsb' 8 16).toNat
  if k.reg.failing || maxCyl ≤ cyl then
    let k' : Disk :=
      { k with reg := k.reg.complete 4#32, boom := Config.freeNat (.boom d) b.stamp % maxCyl }
    { s with disks := setDev s.disks d k' }
  else
    { s with disks := setDev s.disks d { k with reg := k.reg.complete 1#32, boom := cyl } }

/-- The end of a READBLK (R410). -/
def State.endDiskRead (s : State) (d : DevNo) (b : Busy) (e : Nat) : State :=
  let k := s.disks[d]
  let spoiled := { s with mem := scrambleRam s.params (garbage diskUnit d b) b.data0 s.mem }
  if k.reg.failing || (diskBlock s.params.diskGeom[d] k.boom b.command).isNone then spoiled.endDisk d 5#32
  else if !dmaInRam s.params b.data0 then spoiled.endDisk d 7#32
  else (s.diskMoves d b e).endDisk d 1#32

/-- The end of a WRITEBLK (R410). -/
def State.endDiskWrite (s : State) (d : DevNo) (b : Busy) (e : Nat) : State :=
  let k := s.disks[d]
  match diskBlock s.params.diskGeom[d] k.boom b.command with
  | none => s.endDisk d 6#32
  | some off =>
    let spoiled := (let k' : Disk := { k with image := Memory.scramble (garbage diskUnit d b) (fun _ => true) off 4096 k.image }
      { s with disks := setDev s.disks d k' })
    if k.reg.failing then spoiled.endDisk d 6#32
    else if !dmaInRam s.params b.data0 then spoiled.endDisk d 7#32
    else (s.diskMoves d b e).endDisk d 1#32

/-- The last step of disk `d`'s operation, by its command (R409). -/
def State.endDiskOp (s : State) (d : DevNo) (b : Busy) (e : Nat) : State :=
  match commandCode b.command with
  | 2#8 => s.endSeek d b
  | 3#8 => s.endDiskRead d b e
  | 4#8 => s.endDiskWrite d b e
  | _ => s.endDisk d 1#32

/-- One step of disk `d`'s controller. -/
def State.diskTick (s : State) (d : DevNo) : State :=
  match s.disks[d].reg.busy with
  | none => s
  | some b =>
    let e := b.elapsed + 1
    if b.total ≤ e then s.endDiskOp d b e
    else
      let s' := s.diskMoves d b e
      let k := s'.disks[d]
      { s' with disks := setDev s'.disks d { k with reg := k.reg.progress b e } }

/-- The blocks of a tape's cartridge. -/
def Tape.blocks (t : Tape) : List TapeBlock := t.cartridge.getD []

/-- The words of tape `d`'s READBLK that move at step `e`. -/
def State.tapeMoves (s : State) (d : DevNo) (b : Busy) (e : Nat) : State :=
  let k := s.tapes[d]
  match k.blocks[k.head]? with
  | none => s
  | some blk =>
    if commandCode b.command = 3#8 && dmaInRam s.params b.data0 then
      { s with mem := Memory.copyWords (dmaMoves tapeUnit d b e) blk.data 0 b.data0.toNat 1024 s.mem }
    else s

/-- Tape `d`'s registers and head at the end of an operation; "afterwards DATA1 <- code of Mp" (R418). -/
def State.endTape (s : State) (d : DevNo) (status : Word) (head : Nat) : State :=
  let k := s.tapes[d]
  { s with tapes := setDev s.tapes d { k with reg := (k.reg.complete status).freshData1, head := head } }

/-- How many markers, 0 or 1, a tape moves in an operation that ends in a DMA error or a simulated hardware
failure: open (R418, R402). DESIGN CHOICE for the failure (log entry 21). -/
def tapeSlip (d : DevNo) (b : Busy) : Nat := Config.freeNat (.tapeHead d) b.stamp % 2

/-- The end of a READBLK from tape (R418). -/
def State.endTapeRead (s : State) (d : DevNo) (b : Busy) (e : Nat) : State :=
  let k := s.tapes[d]
  let spoiled := { s with mem := scrambleRam s.params (garbage tapeUnit d b) b.data0 s.mem }
  if k.blocks.length ≤ k.head then spoiled.endTape d 5#32 k.head
  else if k.reg.failing then spoiled.endTape d 5#32 (k.head + tapeSlip d b)
  else if !dmaInRam s.params b.data0 then spoiled.endTape d 7#32 (k.head + tapeSlip d b)
  else (s.tapeMoves d b e).endTape d 1#32 (k.head + 1)

/-- The last step of tape `d`'s operation, by its command (R418). At an end of the tape "the head does not move"
(D49); after a simulated failure elsewhere it may have moved one marker or not (log entry 21). -/
def State.endTapeOp (s : State) (d : DevNo) (b : Busy) (e : Nat) : State :=
  let k := s.tapes[d]
  match commandCode b.command with
  | 2#8 =>
    if k.blocks.length ≤ k.head then s.endTape d 4#32 k.head
    else if k.reg.failing then s.endTape d 4#32 (k.head + tapeSlip d b)
    else s.endTape d 1#32 (k.head + 1)
  | 3#8 => s.endTapeRead d b e
  | 4#8 =>
    if k.head = 0 then s.endTape d 6#32 k.head
    else if k.reg.failing then s.endTape d 6#32 (k.head - tapeSlip d b)
    else s.endTape d 1#32 (k.head - 1)
  | _ => s.endTape d 1#32 k.head

/-- One step of tape `d`'s controller. -/
def State.tapeTick (s : State) (d : DevNo) : State :=
  match s.tapes[d].reg.busy with
  | none => s
  | some b =>
    let e := b.elapsed + 1
    if b.total ≤ e then s.endTapeOp d b e
    else
      let s' := s.tapeMoves d b e
      let k := s'.tapes[d]
      { s' with tapes := setDev s'.tapes d { k with reg := k.reg.progress b e } }

/-- Output after a character's transmission failed: whether it shows is open (R402). -/
def spoiledOutput (unit : Nat) (d : DevNo) (b : Busy) (c : Byte) (out : List Byte) : List Byte :=
  if (garbage unit d b 0).getLsbD 0 then out ++ [c] else out

/-- A printer after one step of its controller; PRINTCHR prints DATA0[7:0] "as it was when the command was
accepted" (R423). -/
def Printer.tick (k : Printer) (d : DevNo) : Printer :=
  match k.reg.busy with
  | none => k
  | some b =>
    let e := b.elapsed + 1
    let c : Byte := b.data0.setWidth 8
    if b.total ≤ e then
      if k.reg.failing then
        { k with reg := k.reg.complete 4#32, output := spoiledOutput printerUnit d b c k.output }
      else { k with reg := k.reg.complete 1#32, output := k.output ++ [c] }
    else { k with reg := k.reg.progress b e }

/-- A terminal after one step of its transmitter: TRANSM-CHAR is COMMAND[15:8] of the accepted command (R428, R430).
`draws` is the counter of this step, from which the character field beside an error code is drawn (R427). -/
def Terminal.transmTick (k : Terminal) (d : DevNo) (draws : Nat) : Terminal :=
  match k.transm.busy with
  | none => k
  | some b =>
    let e := b.elapsed + 1
    let c : Byte := b.command.extractLsb' 8 8
    if b.total ≤ e then
      if k.transm.failing then
        { k with transm := k.transm.complete (termMark transmUnit d draws ||| 4#32)
                 output := spoiledOutput transmUnit d b c k.output }
      else
        { k with transm := k.transm.complete (c.setWidth 32 <<< 8 ||| 5#32), output := k.output ++ [c] }
    else { k with transm := k.transm.progress b e }

/-- A terminal after one step of its receiver: it completes only when the input buffer holds a character
(R432); with the failure switch on it then completes in error, and whether the character is lost is open (R402). -/
def Terminal.recvTick (k : Terminal) (d : DevNo) (draws : Nat) : Terminal :=
  match k.recv.busy with
  | none => k
  | some b =>
    let e := b.elapsed + 1
    if b.total ≤ e then
      match k.input with
      | [] => { k with recv := k.recv.progress b e }
      | c :: rest =>
        if k.recv.failing then
          { k with recv := k.recv.complete (termMark recvUnit d draws ||| 4#32)
                   input := if (garbage recvUnit d b 0).getLsbD 0 then rest else k.input }
        else { k with recv := k.recv.complete (c.setWidth 32 <<< 8 ||| 5#32), input := rest }
    else { k with recv := k.recv.progress b e }

/-- One step of printer `d`'s controller. -/
def State.printerTick (s : State) (d : DevNo) : State :=
  { s with printers := setDev s.printers d (s.printers[d].tick d) }

/-- One step of terminal `d`'s two controllers. -/
def State.terminalTick (s : State) (d : DevNo) : State :=
  { s with terminals := setDev s.terminals d ((s.terminals[d].transmTick d s.draws).recvTick d s.draws) }

/-- One step of every device of number `d`. -/
def State.devTick (s : State) (d : DevNo) : State :=
  (((s.diskTick d).tapeTick d).printerTick d).terminalTick d

/-- One step of every device controller, between two CPU steps (R6, R250). -/
def State.devicesTick (s : State) : State := allDevs.foldl State.devTick s

end Sys2Proof.Machine
end

