-- ==== Sys2Proof/Machine/Clock.lean ====
section
/-! DEFINITION. The clock tick (R480): Time of Day, Interval Timer, Random. -/

namespace Sys2Proof.Machine

/-- Random.TLB-Index (R55). -/
def State.randomIndex (s : State) : BitVec 6 := s.random.extractLsb' 8 6

/-- Index.TLB-Index (R55). -/
def State.indexIndex (s : State) : BitVec 6 := s.index.extractLsb' 8 6

/-- The next value of Random.TLB-Index (R56). -/
def nextRandom (tlbSize : Nat) (r : Nat) : Nat := if r ≤ 1 then tlbSize - 1 else r - 1

/-- The clock tick at the start of every step (R480); the free values' counter advances with it. -/
def State.tick (s : State) : State :=
  { s with
    tod := s.tod + 1#64
    timer := if s.timer = 0#32 then 0xFFFFFFFF#32 else s.timer - 1#32
    timerPending := s.timerPending || s.timer = 0#32
    random := BitVec.ofNat 32 (nextRandom s.params.tlbSize s.randomIndex.toNat) <<< 8
    draws := s.draws + 1 }

end Sys2Proof.Machine
end

