-- ==== Sys2Proof/Machine/Operands.lean ====
section
/-! DEFINITION. The operand forms: effective addresses (R225), branch and jump targets (R255), shift
amounts (R142), and the byte merges of the unaligned word accesses (R236 to R239). -/

namespace Sys2Proof.Machine

/-- The effective address `x[rs] + sext_32(imm16)` (R225). -/
def State.effAddr (s : State) (rs : RegIdx) (imm : BitVec 16) : Word := s.rs rs + sext16 imm

/-- `(A + 4) + (sext_32(imm16) << 2)` for the branch at `pc` = A (R255). -/
def State.branchTarget (s : State) (imm : BitVec 16) : Word := s.pc + 4#32 + branchOffset imm

/-- `(A + 4)[31:28] || target26 || 00` for the jump at `pc` = A (R255). -/
def State.jumpTarget (s : State) (target : BitVec 26) : Word :=
  (s.pc + 4#32).extractLsb' 28 4 ++ target ++ 0#2

/-- The link value, the address after the delay slot (R255). -/
def State.linkValue (s : State) : Word := s.pc + 8#32

/-- `x[rs][4:0]` (R196). -/
def lowFive (w : Word) : Nat := (w.extractLsb' 0 5).toNat

/-- The significance position of the addressed byte in its word (R241). -/
def bytePosition (bigEndian : Bool) (va : Word) : Nat :=
  if bigEndian then 3 - (va.extractLsb' 0 2).toNat else (va.extractLsb' 0 2).toNat

/-- The address of the aligned word that holds a byte (R241). -/
def wordAddr (a : Word) : Word := a &&& 0xFFFFFFFC#32

/-- The low `n` bits set. -/
def lowMask (n : Nat) : Word := BitVec.ofNat 32 (2 ^ n - 1)

/-- LWL: bytes k down to 0 of the memory word go to the top of the register (R236). -/
def mergeLwl (k : Nat) (w old : Word) : Word := (w <<< (24 - 8 * k)) ||| (old &&& lowMask (24 - 8 * k))

/-- LWR: bytes 3 down to k of the memory word go to the bottom of the register (R237). -/
def mergeLwr (k : Nat) (w old : Word) : Word := (w >>> (8 * k)) ||| (old &&& ~~~lowMask (32 - 8 * k))

/-- SWL: bytes k down to 0 of the memory word are replaced by the register's top (R238). -/
def mergeSwl (k : Nat) (w reg : Word) : Word := (reg >>> (24 - 8 * k)) ||| (w &&& ~~~lowMask (8 * k + 8))

/-- SWR: bytes 3 down to k of the memory word are replaced by the register's bottom (R239). -/
def mergeSwr (k : Nat) (w reg : Word) : Word := (reg <<< (8 * k)) ||| (w &&& lowMask (8 * k))

end Sys2Proof.Machine
end

