-- ==== Sys2Proof/Machine/Access.lean ====
section
/-! DEFINITION. The access path (R96): alignment, the user-mode range, translation through the TLB, and
the physical access to RAM, ROM, bus and device registers. -/

namespace Sys2Proof.Machine

/-- What an access answers: a value, an exception it raises, or no meaning. -/
inductive Access (α : Type) where
  | ok (v : α)
  | raise (e : Exc)
  | refuse (r : Refusal)
  deriving DecidableEq, Repr

/-- The use an access is for (R97). -/
inductive AccessKind where
  | fetch
  | load
  | store
  deriving DecidableEq, Repr

/-- Access widths (R94). -/
inductive Width where
  | byte
  | half
  | word
  deriving DecidableEq, Repr

/-- The bytes of an access. -/
def Width.bytes : Width → Nat
  | .byte => 1
  | .half => 2
  | .word => 4

/-- A misaligned access (R88). -/
def misaligned (w : Width) (va : Word) : Bool :=
  match w with
  | .byte => false
  | .half => va.extractLsb' 0 1 ≠ 0#1
  | .word => va.extractLsb' 0 2 ≠ 0#2

/-- Address Error, by the access's use (R97). -/
def addressError (kind : AccessKind) (va : Word) : Exc :=
  match kind with
  | .store => .ades va
  | _ => .adel va

/-- Bus Error, by the access's use (R93). -/
def busError (kind : AccessKind) : Exc :=
  match kind with
  | .fetch => .ibe
  | _ => .dbe

/-- An address user-mode may not access (R89, R96): row 31 of spec/93_implementation_defined.md words the limit with VM
off otherwise; the rules are followed. DEDUCED (log entry 36). -/
def State.forbidden (s : State) (va : Word) : Bool :=
  s.userMode && (if s.vmOn then va.toNat < 0x80000000 else va.toNat < 0x20000000)

/-! ### Translation (R104) -/

/-- A TLB slot by number. -/
def State.tlbAt (s : State) (k : Nat) : TlbEntry :=
  if h : k < 64 then s.tlb[k] else { hi := 0#32, lo := 0#32 }

/-- A match: the page is the entry's, and the entry is global or of the given ASID (R104). -/
def TlbEntry.hits (t : TlbEntry) (page : BitVec 20) (asid : BitVec 6) : Bool :=
  pageOf t.hi = page && (t.lo.getLsbD 8 || asidOf t.hi = asid)

/-- The highest-numbered matching slot below `n` (R104). -/
def State.tlbFind (s : State) (page : BitVec 20) (asid : BitVec 6) : Nat → Option Nat
  | 0 => none
  | n + 1 => if (s.tlbAt n).hits page asid then some n else s.tlbFind page asid n

/-- The slot translation uses for a page under the current ASID, among slots 0 to TLBSIZE-1 (R103, R104). -/
def State.tlbLookup (s : State) (page : BitVec 20) : Option Nat :=
  s.tlbFind page (asidOf s.entryHi) s.params.tlbSize

/-- A physical address from an entry's PFN and an offset (R104). -/
def physOf (lo va : Word) : Word := mergeBits 0xFFFFF000#32 lo va

/-- `Translate(va, w)` (R104): V is checked before D. -/
def State.translate (s : State) (kind : AccessKind) (va : Word) : Access Word :=
  match s.tlbLookup (pageOf va) with
  | none => .raise (if kind = .store then .refillS va else .refillL va)
  | some k =>
    let lo := (s.tlbAt k).lo
    if !lo.getLsbD 9 then .raise (if kind = .store then .tlbs va else .tlbl va)
    else if kind = .store && !lo.getLsbD 10 then .raise (.mod va)
    else .ok (physOf lo va)

/-- Steps 2 and 3 of the access path: the user-mode range, then translation (R96, R102). -/
def State.resolve (s : State) (kind : AccessKind) (va : Word) : Access Word :=
  if s.forbidden va then .raise (addressError kind va)
  else if !s.vmOn || va.toNat < 0x20000000 then .ok va
  else s.translate kind va

/-! ### Physical access (R90 to R93) -/

/-- The areas of the physical map (R81). -/
inductive Region where
  | execRom
  | device
  | bootRom
  | ram
  | absent
  deriving DecidableEq, Repr

/-- The area that holds `n` bytes at a physical address (R81, R82). -/
def regionOf (p : Params) (pa : Word) (n : Nat) : Region :=
  let a := pa.toNat
  if a + n ≤ p.romSize then .execRom
  else if 0x10000000 ≤ a && a < devTop then .device
  else if 0x1FC00000 ≤ a && a + n ≤ p.bootTop then .bootRom
  else if 0x20000000 ≤ a && a + n ≤ p.ramTop then .ram
  else .absent

/-- The bytes of an access as a word, zero-extended (R87, R90). -/
def Memory.fetch (be : Bool) (m : Memory) (w : Width) (a : Nat) : Word :=
  match w with
  | .byte => (m.read a).setWidth 32
  | .half => (m.readHalf be a).setWidth 32
  | .word => m.readWord be a

/-- The low bytes of a word stored (R87, R90). -/
def Memory.store (be : Bool) (m : Memory) (w : Width) (a : Nat) (v : Word) : Memory :=
  match w with
  | .byte => m.write a (v.setWidth 8)
  | .half => m.writeHalf be a (v.setWidth 16)
  | .word => m.writeWord be a v

/-- The number of a word of the bus and device area, from 0 at 0x10000000 (R380, R387, R388, R395). -/
def busWordOf (pa : Word) : Nat := (pa.toNat - 0x10000000) / 4

/-- The interrupt line of a device register's word (R395). -/
def lineOfWord (n : Nat) : Nat := (n - 20) / 32 + 3

/-- The device number of a device register's word (R395). -/
def devOfWord (n : Nat) : DevNo := ⟨(n - 20) / 4 % 8, Nat.mod_lt _ (by decide)⟩

/-- The field of a device register's word (R395). -/
def fieldOfWord (n : Nat) : Nat := (n - 20) % 4

/-- A load of word `n` of the bus and device area (R380 to R388, R395). -/
def State.readBus (s : State) (n : Nat) : Word :=
  match n with
  | 0 => 0x20000000#32
  | 1 => BitVec.ofNat 32 s.params.ramSize
  | 2 => 0#32
  | 3 => BitVec.ofNat 32 s.params.romSize
  | 4 => 0x1FC00000#32
  | 5 => BitVec.ofNat 32 s.params.bootSize
  | 6 => s.tod.extractLsb' 32 32
  | 7 => s.tod.extractLsb' 0 32
  | 8 => s.timer
  | 9 => s.params.timeScale
  | 10 => s.params.disks.setWidth 32
  | 11 => s.params.tapes.setWidth 32
  | 12 => 0#32
  | 13 => s.params.printers.setWidth 32
  | 14 => s.params.terminals.setWidth 32
  | 15 => s.pendingMap 3
  | 16 => s.pendingMap 4
  | 17 => s.pendingMap 5
  | 18 => s.pendingMap 6
  | 19 => s.pendingMap 7
  | n => s.readDevice (lineOfWord n) (devOfWord n) (fieldOfWord n)

/-- A store to word `n` of the bus and device area: the Interval Timer, which it also acknowledges (R385),
or a device register; every other word is read-only and ignores it (R92, R380, R387, R388). -/
def State.writeBus (s : State) (n : Nat) (v : Word) : State :=
  if n = 8 then { s with timer := v, timerPending := false }
  else if 20 ≤ n then s.writeDevice (lineOfWord n) (devOfWord n) (fieldOfWord n) v
  else s

/-- `PhysRead(pa, n)` (R90 to R93). -/
def State.physRead (s : State) (kind : AccessKind) (w : Width) (pa : Word) : Access Word :=
  match regionOf s.params pa w.bytes with
  | .absent => .raise (busError kind)
  | .device => if w = .word then .ok (s.readBus (busWordOf pa)) else .refuse .subWordDeviceAccess
  | _ => .ok (s.mem.fetch s.params.bigEndian w pa.toNat)

/-- `PhysWrite(pa, n, v)` (R90 to R93): a write onto ROM is a Bus Error. -/
def State.physWrite (s : State) (w : Width) (pa v : Word) : Access State :=
  match regionOf s.params pa w.bytes with
  | .ram => .ok { s with mem := s.mem.store s.params.bigEndian w pa.toNat v }
  | .device => if w = .word then .ok (s.writeBus (busWordOf pa) v) else .refuse .subWordDeviceAccess
  | _ => .raise .dbe

/-- `MemRead(va, n, kind)` (R96). -/
def State.memRead (s : State) (kind : AccessKind) (w : Width) (va : Word) : Access Word :=
  if misaligned w va then .raise (addressError kind va)
  else match s.resolve kind va with
    | .ok pa => s.physRead kind w pa
    | .raise e => .raise e
    | .refuse r => .refuse r

/-- `MemWrite(va, n, v)` (R96). -/
def State.memWrite (s : State) (w : Width) (va v : Word) : Access State :=
  if misaligned w va then .raise (.ades va)
  else match s.resolve .store va with
    | .ok pa => s.physWrite w pa v
    | .raise e => .raise e
    | .refuse r => .refuse r

/-- LWL and LWR's access: the aligned word that holds `va`, no alignment check, exceptions report `va`; the
bus and device area refuses it at every byte position (R241, R92, item 29 of spec/93_implementation_defined.md). -/
def State.readAround (s : State) (va : Word) : Access Word :=
  match s.resolve .load va with
  | .ok pa =>
    if regionOf s.params (wordAddr pa) 4 = .device then .refuse .subWordDeviceAccess
    else s.physRead .load .word (wordAddr pa)
  | .raise e => .raise e
  | .refuse r => .refuse r

/-- SWL and SWR's access: the bytes that `merge` takes from the register replaced in the aligned word that
holds `va` (R238, R239, R241). -/
def State.writeAround (s : State) (va : Word) (merge : Word → Word) : Access State :=
  match s.resolve .store va with
  | .ok pa =>
    let a := wordAddr pa
    match regionOf s.params a 4 with
    | .ram =>
      .ok { s with mem := s.mem.writeWord s.params.bigEndian a.toNat
                            (merge (s.mem.readWord s.params.bigEndian a.toNat)) }
    | .device => .refuse .subWordDeviceAccess
    | _ => .raise .dbe
  | .raise e => .raise e
  | .refuse r => .refuse r

end Sys2Proof.Machine
end

