-- ==== Sys2Proof/Machine/Cp0.lean ====
section
/-! DEFINITION. The CP0 registers as MFC0, MTC0 and the ROM see them (R32 to R56, R275, R276), and the TLB as
its five instructions see it (R280 to R285). -/

namespace Sys2Proof.Machine

/-! ### Registers -/

/-- The named fields of Status that a write changes: every one but CU[3:1] (R33, R40, R43). -/
def statusNamed : Word := 0x1740FF3F#32

/-- The unnamed bits of Status (R41). -/
def statusUnnamed : Word := 0x08BF00C0#32

/-- Status after software writes `v`: the named fields take their bits, CU[3:1] stay 0, the unnamed bits
are open (R41, R276). -/
def State.statusWritten (s : State) (v : Word) : Word :=
  (v &&& statusNamed) ||| (Config.freeWord .statusUnnamed s.draws &&& statusUnnamed)

/-- EntryHi after software writes `v`: bits 5:0 are open (R53). -/
def State.entryHiWritten (s : State) (v : Word) : Word :=
  mergeBits 0xFFFFFFC0#32 v (Config.freeWord .entryHiUnnamed s.draws)

/-- EntryLo after software writes `v`: bits 7:0 are open (R54). -/
def State.entryLoWritten (s : State) (v : Word) : Word :=
  mergeBits 0xFFFFFF00#32 v (Config.freeWord .entryLoUnnamed s.draws)

/-- Cause after software writes `v`: IP[1:0] alone change (R47, R276). -/
def causeWritten (cause v : Word) : Word := mergeBits 0x00000300#32 v cause

/-- What MFC0 reads, `none` where the number names no register (R275, R32, R55). -/
def State.cp0Read (s : State) (rd : RegIdx) : Option Word :=
  match rd with
  | 0#5 => some (s.index &&& 0x80003F00#32)
  | 1#5 => some (s.random &&& 0x00003F00#32)
  | 2#5 => some s.entryLo
  | 8#5 => some s.badVAddr
  | 10#5 => some s.entryHi
  | 12#5 => some s.status
  | 13#5 => some s.causeRead
  | 14#5 => some s.epc
  | 15#5 => some s.params.prid
  | _ => none

/-- MTC0's effect, `none` where the number names no register; a write of a read-only register is ignored
(R276). -/
def State.cp0Write (s : State) (rd : RegIdx) (v : Word) : Option State :=
  match rd with
  | 0#5 => some { s with index := mergeBits 0x00003F00#32 v s.index }
  | 2#5 => some { s with entryLo := s.entryLoWritten v }
  | 10#5 => some { s with entryHi := s.entryHiWritten v }
  | 12#5 => some { s with status := s.statusWritten v }
  | 13#5 => some { s with cause := causeWritten s.cause v }
  | 1#5 => some s
  | 8#5 => some s
  | 14#5 => some s
  | 15#5 => some s
  | _ => none

/-! ### TLB -/

/-- The TLB with slot `k` replaced. -/
def setTlb (tlb : Vector TlbEntry 64) (k : BitVec 6) (t : TlbEntry) : Vector TlbEntry 64 :=
  tlb.set k.toNat t k.isLt

/-- The entry TLBWI and TLBWR write: EntryHi and EntryLo (R281, R282). -/
def State.entryPair (s : State) : TlbEntry := { hi := s.entryHi, lo := s.entryLo }

/-- Whether a slot number names a slot (R57). -/
def State.tlbHas (s : State) (k : BitVec 6) : Bool := k.toNat < s.params.tlbSize

/-- The TLB after TLBCLR: slots 1 to TLBSIZE-1 zeroed, slot 0 kept (R284). -/
def State.tlbCleared (s : State) : Vector TlbEntry 64 :=
  Vector.ofFn fun i : Fin 64 =>
    if 1 ≤ i.val && i.val < s.params.tlbSize then { hi := 0#32, lo := 0#32 } else s.tlb[i]

/-- Index after TLBP (R285): P in bit 31, TLB-Index in bits 13:8 (R55); after a failed probe TLB-Index is
open. -/
def State.probed (s : State) : Word :=
  match s.tlbLookup (pageOf s.entryHi) with
  | some k => mergeBits 0x80003F00#32 (BitVec.ofNat 32 k <<< 8) s.index
  | none =>
    mergeBits 0x80003F00#32 (0x80000000#32 ||| (Config.freeWord .probeIndex s.draws &&& 0x00003F00#32)) s.index

end Sys2Proof.Machine
end

