-- ==== Sys2Proof/Machine/HostActs.lean ====
section
/-! DEFINITION. The host's actions between two steps (R450, R452, R485, R488, R415, R402, R432). -/

namespace Sys2Proof.Machine

/-- What survives a reset (R452); a terminal's log file is its whole `output` (log entry 37). -/
def State.media (s : State) : Media :=
  { diskImages := deviceBank fun d => s.disks[d].image
    cartridges := deviceBank fun d => s.tapes[d].cartridge
    printed := deviceBank fun d => s.printers[d].output
    shown := deviceBank fun d => s.terminals[d].output }

/-- A cartridge: at least one block, each of at most 4096 bytes in canonical form (R415). -/
def cartridgeOk (blocks : List TapeBlock) : Bool :=
  !blocks.isEmpty && blocks.all fun b => b.data.wf && b.data.all fun c => c.1 < 4096

/-- The media with a device's file changed (R488); a file that no device can have (R415) changes nothing. -/
def Media.change (m : Media) : DeviceFile → Media
  | .disk d image => if image.wf then { m with diskImages := setDev m.diskImages d image } else m
  | .tape d none => { m with cartridges := setDev m.cartridges d none }
  | .tape d (some blocks) =>
    if cartridgeOk blocks then { m with cartridges := setDev m.cartridges d (some blocks) } else m
  | .printer d printed => { m with printed := setDev m.printed d printed }
  | .terminal d shown => { m with shown := setDev m.shown d shown }

/-- Reset with a running machine's media (R452) but for the device files that the configuration changes (R450, R488);
the host's further actions and the free values' counter go on. `p` may differ in any parameter (R65), the byte order
among them, which R86 fixes for the life of the emulator. DESIGN CHOICE (log entry 5). -/
def State.hostReset (s : State) (p : Params) (files : List DeviceFile) : State :=
  { State.resetWith p (files.foldl Media.change s.media) with inputs := s.inputs, draws := s.draws }

/-- The host's change of a CP0 register; CU[3:1] stay 0 (R40), Random stays in its range (R56, log entry 12),
IP[7:2] are no storage (R46), PRId is constant (R52). The unnamed bits of Status, EntryHi and EntryLo take the
host's bits, where the spec speaks of a software write only (R41, R53, R54): DESIGN CHOICE (log entry 12). -/
def State.hostCp0 (s : State) (rd : RegIdx) (v : Word) : State :=
  match rd with
  | 0#5 => { s with index := v &&& 0x80003F00#32 }
  | 1#5 =>
    if 1 ≤ (v.extractLsb' 8 6).toNat && (v.extractLsb' 8 6).toNat < s.params.tlbSize then
      { s with random := v &&& 0x00003F00#32 }
    else s
  | 2#5 => { s with entryLo := v }
  | 8#5 => { s with badVAddr := v }
  | 10#5 => { s with entryHi := v }
  | 12#5 => { s with status := v &&& 0x1FFFFFFF#32 }
  | 13#5 => { s with cause := v &&& 0xB000037C#32 }
  | 14#5 => { s with epc := v }
  | _ => s

/-- A device register's stored word changed by the host: no command is issued by it, and an operation in progress
goes on with the words it was accepted with (R408, R423). What the host puts into DATA1 is what a load shows until the
device writes DATA1 anew; the device itself, its geometry or its tape head, is as before. DESIGN CHOICE (log entry 12). -/
def DevReg.hostEdit (field : Nat) (v : Word) (r : DevReg) : DevReg :=
  match field with
  | 0 => { r with status := v }
  | 1 => { r with command := v }
  | 2 => { r with data0 := v }
  | _ => { r with data1 := some v }

/-- The host's change of a word of an installed device's register (R485, R395, R425). -/
def State.hostDevice (s : State) (line : Nat) (d : DevNo) (field : Nat) (v : Word) : State :=
  match line with
  | 3 =>
    if s.params.disks.getLsbD d then
      { s with disks := setDev s.disks d { s.disks[d] with reg := s.disks[d].reg.hostEdit field v } }
    else s
  | 4 =>
    if s.params.tapes.getLsbD d then
      { s with tapes := setDev s.tapes d { s.tapes[d] with reg := s.tapes[d].reg.hostEdit field v } }
    else s
  | 6 =>
    if s.params.printers.getLsbD d then
      { s with printers := setDev s.printers d { s.printers[d] with reg := s.printers[d].reg.hostEdit field v } }
    else s
  | 7 =>
    if s.params.terminals.getLsbD d then
      let k := s.terminals[d]
      let k' : Terminal :=
        if field < 2 then { k with recv := k.recv.hostEdit field v }
        else { k with transm := k.transm.hostEdit (field - 2) v }
      { s with terminals := setDev s.terminals d k' }
    else s
  | _ => s

/-- "modify the contents of any word in RAM memory including the device registers" (R485); the clocks have
actions of their own. -/
def State.hostWord (s : State) (pa v : Word) : State :=
  if pa.toNat % 4 ≠ 0 then s
  else match regionOf s.params pa 4 with
    | .ram => { s with mem := s.mem.writeWord s.params.bigEndian pa.toNat v }
    | .device =>
      let n := busWordOf pa
      if 20 ≤ n then s.hostDevice (lineOfWord n) (devOfWord n) (fieldOfWord n) v else s
    | _ => s

/-- A line typed at terminal `d`: shown at once and buffered, with its newline (R432). Window and log file are one list,
so the echo is in the log too, which survives a reset. DESIGN CHOICE (log entry 37). -/
def State.typed (s : State) (d : DevNo) (line : List Byte) : State :=
  if s.params.terminals.getLsbD d then
    let k := s.terminals[d]
    let text := line ++ [0x0A#8]
    let k' : Terminal := { k with input := k.input ++ text, output := k.output ++ text }
    { s with terminals := setDev s.terminals d k' }
  else s

/-- A cartridge loaded into tape `d`, or taken out (`none`), "if the tape device is not busy" (R415); either
way the head is at TS, STATUS is Device Ready and DATA1 shows the marker (R416). -/
def State.changeTape (s : State) (d : DevNo) (c : Option (List TapeBlock)) : State :=
  let k := s.tapes[d]
  if s.params.tapes.getLsbD d && k.reg.busy.isNone then
    let k' : Tape := { reg := { k.reg with status := 1#32, data1 := none }, cartridge := c, head := 0 }
    { s with tapes := setDev s.tapes d k' }
  else s

/-- The simulated hardware failure switch (R402). -/
def State.switchFailure (s : State) (cls : DevClass) (d : DevNo) (on : Bool) : State :=
  match cls with
  | .disk => { s with disks := setDev s.disks d { s.disks[d] with reg := { s.disks[d].reg with failing := on } } }
  | .tape => { s with tapes := setDev s.tapes d { s.tapes[d] with reg := { s.tapes[d].reg with failing := on } } }
  | .printer =>
    { s with printers := setDev s.printers d
                           { s.printers[d] with reg := { s.printers[d].reg with failing := on } } }
  | .terminal =>
    let k := s.terminals[d]
    let k' : Terminal :=
      { k with recv := { k.recv with failing := on }, transm := { k.transm with failing := on } }
    { s with terminals := setDev s.terminals d k' }

/-- One action of the host (R6, R485). An edit of one program-counter register leaves the others and `inslot` as they
are. DESIGN CHOICE (log entry 13). -/
def State.hostAct (s : State) : HostAct → State
  | .setGpr r v => { s with gpr := setReg s.gpr r v }
  | .setHi v => { s with hi := v }
  | .setLo v => { s with lo := v }
  | .setPc v => { s with pc := v }
  | .setNextPc v => { s with npc := v }
  | .setSuccPc v => { s with succPc := some v }
  | .setCp0 rd v => s.hostCp0 rd v
  | .setTod v => { s with tod := v }
  | .setTimer v => { s with timer := v }
  | .setWord pa v => s.hostWord pa v
  | .setTlbHi k v => { s with tlb := setTlb s.tlb k { s.tlb[k.toNat]'k.isLt with hi := v } }
  | .setTlbLo k v => { s with tlb := setTlb s.tlb k { s.tlb[k.toNat]'k.isLt with lo := v } }
  | .typeLine d line => s.typed d line
  | .loadTape d blocks => if cartridgeOk blocks then s.changeTape d (some blocks) else s
  | .unloadTape d => s.changeTape d none
  | .setFailure cls d on => s.switchFailure cls d on
  | .reset p files => s.hostReset p files

/-- The host's actions of one turn, in order (R485). -/
def State.hostActs (s : State) (acts : List HostAct) : State := acts.foldl State.hostAct s

/-- Everything that happens between the previous instruction and this step's interrupt test: the host, the
device controllers, the clock tick (R6, R250 phase 1, R480). -/
def State.agents (s : State) : State := s.devicesTick.tick

end Sys2Proof.Machine
end

