-- ==== Sys2Proof/Machine/Rom.lean ====
section
/-! DEFINITION. Level 2 of R300: the distributed ROM's routines as the macro-steps of 45_rom_services.md and
of the boot sequence R455. Used only where `Params.romContract` holds. -/

namespace Sys2Proof.Machine

/-! ### The processor state in memory (R302, R304) -/

/-- A word of memory: word `i` of the table or block at `a`. -/
def State.wordAt (s : State) (a : Word) (i : Nat) : Word :=
  s.mem.readWord s.params.bigEndian (a.toNat + 4 * i)

/-- `PhysRead(pa, 4)` where something is there to be read (R90 to R92). -/
def State.physWord (s : State) (pa : Word) : Word :=
  match regionOf s.params pa 4 with
  | .device => s.readBus (busWordOf pa)
  | _ => s.mem.readWord s.params.bigEndian pa.toNat

/-- Word `i` of the processor state at physical address `a`, addresses modulo 2^32 (R302, R304). -/
def State.stateWord (s : State) (a : Word) (i : Nat) : Word := s.physWord (a + BitVec.ofNat 32 (4 * i))

/-- The processor state's 35 words in the layout of R302, with `cause` in the Cause word. -/
def State.stateWords (s : State) (cause : Word) : List Word :=
  [s.entryHi, cause, s.status, s.epc]
    ++ [s.reg 1, s.reg 2, s.reg 3, s.reg 4, s.reg 5, s.reg 6, s.reg 7, s.reg 8, s.reg 9, s.reg 10]
    ++ [s.reg 11, s.reg 12, s.reg 13, s.reg 14, s.reg 15, s.reg 16, s.reg 17, s.reg 18, s.reg 19, s.reg 20]
    ++ [s.reg 21, s.reg 22, s.reg 23, s.reg 24, s.reg 25, s.reg 28, s.reg 29, s.reg 30, s.reg 31]
    ++ [s.hi, s.lo]

/-- `StoreState(A)` (R304). -/
def State.storeState (s : State) (a cause : Word) : State :=
  { s with mem := storeWords s.params.bigEndian (s.stateWords cause) a.toNat s.mem }

/-- A general register the ROM leaves open (R301, R314, R455). -/
def State.openReg (s : State) (r : Fin 32) : Word := Config.freeWord (.romReg (BitVec.ofFin r)) s.draws

/-- The general registers a state load leaves: each from its word, but those `isOpen` names, which are open. -/
def State.loadedRegs (s : State) (a : Word) (isOpen : Nat → Bool) : Vector Word 32 :=
  Vector.ofFn fun r : Fin 32 =>
    if r.val = 0 then s.gpr[r] else if isOpen r.val then s.openReg r else s.stateWord a (stateWordOf r.val)

/-- $k0 and $k1 (R301). -/
def isKernelReg (r : Nat) : Bool := r = 26 || r = 27

/-- $v0, $a0, $a1, $a2, $k0 and $k1, which FORK does not load (R314). -/
def isForkOpen (r : Nat) : Bool := r = 2 || r = 4 || r = 5 || r = 6 || isKernelReg r

/-- The end of a macro-step that starts a stream at `t`. -/
def State.startAt (s : State) (t : Word) : State :=
  { s with pc := t, npc := t + 4#32, succPc := none, inslot := false }

/-- `LoadState(A)` (R304). -/
def State.loadState (s : State) (a : Word) : State :=
  { s with
    entryHi := s.entryHiWritten (s.stateWord a 0)
    cause := causeWritten s.cause (s.stateWord a 1)
    status := popStacks (s.statusWritten (s.stateWord a 2))
    gpr := s.loadedRegs a isKernelReg
    hi := s.stateWord a 33
    lo := s.stateWord a 34 }.startAt (s.stateWord a 3)

/-- A state address LDST and FORK accept: word-aligned, each of its 35 words in RAM, a ROM or the bus and device
area, where a read is no Bus Error (R313, R92, R93). -/
def State.stateReadable (s : State) (a : Word) : Bool :=
  a.toNat % 4 = 0
    && (List.range 35).all fun i => regionOf s.params (a + BitVec.ofNat 32 (4 * i)) 4 ≠ .absent

/-! ### The ROM-Excpt handler (R305, R311) -/

/-- Passing an exception up (R305, R371). -/
def State.passUp (s : State) (old new : Word) : State := (s.storeState old s.causeRead).loadState new

/-- LDST (R313). -/
def romLdst (s : State) : Result :=
  let p := s.reg s.params.services.ldstPtr
  if s.stateReadable p then .next (s.loadState p) else .refused .romBadStatePointer

/-- The general registers, HI and LO that FORK loads first, from the state at `p` (R314). -/
def State.forkRegs (s : State) (p : Word) : State :=
  { s with gpr := s.loadedRegs p isForkOpen, hi := s.stateWord p 33, lo := s.stateWord p 34 }

/-- What FORK loads last, "performed atomically": EntryHi, Cause, Status and PC (R314). -/
structure ForkRest where
  entryHi : Word
  cause : Word
  status : Word
  pc : Word
  deriving DecidableEq, Repr

/-- The last group FORK loads, with $v0, $a0, $a1, $a2, $k0 and $k1 left open (R314). -/
def State.forkLast (s : State) (g : ForkRest) : State :=
  ({ s with
    gpr := Vector.ofFn fun r : Fin 32 => if isForkOpen r.val then s.openReg r else s.gpr[r]
    entryHi := s.entryHiWritten g.entryHi
    cause := causeWritten s.cause g.cause
    status := popStacks (s.statusWritten g.status) } : State).startAt g.pc

/-- Where in the execution ROM FORK's last group is loaded: an open address after the handler's first word.
DESIGN CHOICE (log entry 33). -/
def Params.forkResume (p : Params) : Word :=
  BitVec.ofNat 32 (0x84 + 4 * (Config.freeNat .forkResume 0 % ((p.romSize - 0x84) / 4)))

/-- Whether the execution ROM has a word after the handler's first, for FORK's second part to be at. -/
def Params.forkPauses (p : Params) : Bool := 0x88 ≤ p.romSize

/-- The machine between FORK's two parts (R314, D32): interrupts on by a write of Status, which keeps its other named
fields and leaves the unnamed bits open as every software write does (R41, log entry 7), and what is still to be loaded in the registers
FORK leaves open, $v0 Cause, $a0 EntryHi, $a1 Status, $a2 PC, so that an interrupt saves it with the rest of the
stream and several FORKs may be under way. DESIGN CHOICE (log entry 33). -/
def State.forkPause (s : State) (g : ForkRest) : State :=
  ({ s with
    gpr := setReg (setReg (setReg (setReg s.gpr 2#5 g.cause) 4#5 g.entryHi) 5#5 g.status) 6#5 g.pc
    status := s.statusWritten (s.status ||| 1#32) } : State).startAt s.params.forkResume

/-- What the registers hold for the second part of a FORK. -/
def State.forkHeld (s : State) : ForkRest :=
  { entryHi := s.reg 4#5, cause := s.reg 2#5, status := s.reg 5#5, pc := s.reg 6#5 }

/-- FORK (R314). "NOT fully atomic": a caller with interrupts disabled sees one macro-step; for one with
interrupts enabled, IEp of the pushed Status, the general registers are loaded before interrupts are disabled for
the last group (D32). -/
def romFork (s : State) : Result :=
  let v := s.params.services
  let p := s.reg v.forkPtr
  let g : ForkRest :=
    { entryHi := s.reg v.forkEntryHi, cause := s.stateWord p 1, status := s.reg v.forkStatus, pc := s.reg v.forkPc }
  if !s.stateReadable p then .refused .romBadStatePointer
  else if s.status.getLsbD 2 && s.params.forkPauses then .next ((s.forkRegs p).forkPause g)
  else .next ((s.forkRegs p).forkLast g)

/-- "kernel panic" (R318). -/
def panicText : List Byte :=
  [0x6B#8, 0x65#8, 0x72#8, 0x6E#8, 0x65#8, 0x6C#8, 0x20#8, 0x70#8, 0x61#8, 0x6E#8, 0x69#8, 0x63#8]

/-- "System halted" (R319). -/
def haltText : List Byte :=
  [0x53#8, 0x79#8, 0x73#8, 0x74#8, 0x65#8, 0x6D#8, 0x20#8, 0x68#8, 0x61#8, 0x6C#8, 0x74#8, 0x65#8, 0x64#8]

/-- A transmitter whose operation in progress, if any, is at its last step. -/
def DevReg.atLastStep (r : DevReg) : DevReg :=
  match r.busy with
  | none => r
  | some b => { r with busy := some { b with elapsed := b.total } }

/-- Terminal 0 after the ROM transmitted a text by polling (R318, R430): a character in progress goes out
first; each character is acknowledged; with the failure switch on, which of them show is open (R402). -/
def Terminal.transmitText (k : Terminal) (text : List Byte) (draws : Nat) : Terminal :=
  let k1 := ({ k with transm := k.transm.atLastStep } : Terminal).transmTick 0 draws
  let b : Busy := { command := 2#32, data0 := 0#32, elapsed := 0, total := 0, stamp := draws }
  let shown := if k.transm.failing then
      (text.zipIdx.filter fun c => (garbage transmUnit 0 b c.2).getLsbD 0).map Prod.fst
    else text
  { k1 with
    transm := { k1.transm with
      status := termMark transmUnit 0 draws ||| 1#32, command := 1#32, pending := false, busy := none }
    output := k1.output ++ shown }

/-- $k0 and $k1 after the ROM used them (R301). -/
def State.kernelRegsOpen (s : State) : Vector Word 32 :=
  (s.gpr.set 26 (s.openReg 26)).set 27 (s.openReg 27)

/-- PANIC and HALT: the text on terminal 0, if it is installed, then the endless loop, the end of the run
(R318, R319, R495). "Whether a newline or other bytes surround the text is not in the source": none do.
DESIGN CHOICE (log entry 18). -/
def romEnd (s : State) (text : List Byte) (how : RunEnd) : Result :=
  let shown := if s.params.terminals.getLsbD 0 then
      setDev s.terminals 0 (s.terminals[0].transmitText text s.draws)
    else s.terminals
  .next { s with terminals := shown, gpr := s.kernelRegsOpen, ended := some how }

/-- PANIC (R318). -/
def romPanic (s : State) : Result := romEnd s panicText .panic

/-- HALT (R319). -/
def romHalt (s : State) : Result := romEnd s haltText .halt

/-- Cause.ExcCode (R44). -/
def State.excCode (s : State) : BitVec 5 := s.cause.extractLsb' 2 5

/-- A Breakpoint: a service if the code that executed BREAK ran in kernel-mode and a0 holds a service code,
else passed up (R311). -/
def romBreak (s : State) : Result :=
  let v := s.params.services
  let a0 := s.reg 4#5
  if s.status.getLsbD 3 then .next (s.passUp s.params.areas.sysBpOld s.params.areas.sysBpNew)
  else if a0 = v.ldstCode then romLdst s
  else if a0 = v.forkCode then romFork s
  else if a0 = v.panicCode then romPanic s
  else if a0 = v.haltCode then romHalt s
  else .next (s.passUp s.params.areas.sysBpOld s.params.areas.sysBpNew)

/-- The ROM-Excpt handler, by Cause.ExcCode (R305). -/
def romExcpt (s : State) : Result :=
  let a := s.params.areas
  match s.excCode with
  | 0#5 => .next (s.passUp a.intOld a.intNew)
  | 1#5 => .next (s.passUp a.tlbOld a.tlbNew)
  | 2#5 => .next (s.passUp a.tlbOld a.tlbNew)
  | 3#5 => .next (s.passUp a.tlbOld a.tlbNew)
  | 4#5 => .next (s.passUp a.pgmTrapOld a.pgmTrapNew)
  | 5#5 => .next (s.passUp a.pgmTrapOld a.pgmTrapNew)
  | 6#5 => .next (s.passUp a.pgmTrapOld a.pgmTrapNew)
  | 7#5 => .next (s.passUp a.pgmTrapOld a.pgmTrapNew)
  | 8#5 => .next (s.passUp a.sysBpOld a.sysBpNew)
  | 9#5 => romBreak s
  | 10#5 => .next (s.passUp a.pgmTrapOld a.pgmTrapNew)
  | 11#5 => .next (s.passUp a.pgmTrapOld a.pgmTrapNew)
  | 12#5 => .next (s.passUp a.pgmTrapOld a.pgmTrapNew)
  | _ => .refused .romUnknownCause

/-! ### The ROM-TLB-Refill handler (R306 to R310) -/

/-- The segment table's column of a SEGNO (R108). -/
def segmentColumn (segno : BitVec 2) : Nat :=
  match segno with
  | 0#2 => 0
  | 1#2 => 0
  | 2#2 => 1
  | _ => 2

/-- The address of the page table of an ASID and a virtual address (R306). -/
def State.pageTable (s : State) (asid : BitVec 6) (va : Word) : Word :=
  s.mem.readWord s.params.bigEndian (0x20000500 + 12 * asid.toNat + 4 * segmentColumn (va.extractLsb' 30 2))

/-- Bad-PgTbl (R307); a table whose header is not in RAM counts as one (log entry 14). -/
def State.badPgTbl (s : State) (t : Word) : Bool :=
  let h := s.wordAt t 0
  t.toNat < 0x20000000 || t.toNat % 4 ≠ 0 || s.params.ramTop ≤ t.toNat
    || h.extractLsb' 24 8 ≠ 0x2A#8
    || s.params.ramTop < t.toNat + 4 + 8 * (h.extractLsb' 0 20).toNat

/-- PTE `j` of the table at `t` (R109). -/
def State.pte (s : State) (t : Word) (j : Nat) : TlbEntry :=
  { hi := s.wordAt t (1 + 2 * j), lo := s.wordAt t (2 + 2 * j) }

/-- The first entry from number `j` on, among `n`, that matches (R308). -/
def State.searchPgTbl (s : State) (t : Word) (page : BitVec 20) (asid : BitVec 6) : Nat → Nat → Option TlbEntry
  | _, 0 => none
  | j, n + 1 => if (s.pte t j).hits page asid then some (s.pte t j) else s.searchPgTbl t page asid (j + 1) n

/-- The refill and the return to the interrupted stream (R310). -/
def State.refill (s : State) (e : TlbEntry) : State :=
  let k := BitVec.ofNat 6 (1 + Config.freeNat .refillSlot s.draws % (s.params.tlbSize - 1))
  ({ s with
    tlb := setTlb s.tlb k e
    entryHi := mergeBits 0x00000FC0#32 s.entryHi e.hi
    entryLo := e.lo
    status := popStacks s.status
    gpr := s.kernelRegsOpen } : State).startAt s.epc

/-- Passing up a Bad-PgTbl (13) or PTE-MISS (14): the code only in the stored Cause (R309). -/
def State.passUpRefill (s : State) (code : BitVec 5) : State :=
  (s.storeState s.params.areas.tlbOld
    (mergeBits 0x0000007C#32 (code.setWidth 32 <<< 2) s.causeRead)).loadState s.params.areas.tlbNew

/-- The ROM-TLB-Refill handler (R306 to R310). -/
def romRefill (s : State) : Result :=
  let va := s.badVAddr
  let asid := asidOf s.entryHi
  let t := s.pageTable asid va
  if s.badPgTbl t then .next (s.passUpRefill 13#5)
  else match s.searchPgTbl t (pageOf va) asid 0 ((s.wordAt t 0).extractLsb' 0 20).toNat with
    | some e => .next (s.refill e)
    | none => .next (s.passUpRefill 14#5)

/-! ### The bootstrap ROM (R455) -/

/-- Memory after a tape's blocks up to the first file mark were read upward from `a`, how many they were,
and where the last one went. -/
def readFile : List TapeBlock → Nat → Memory → Nat → Memory × Nat
  | [], _, m, n => (m, n)
  | b :: rest, a, m, n =>
    let m' := Memory.copyWords (fun _ => true) b.data 0 a 1024 m
    if b.endsFile then (m', n + 1) else readFile rest (a + 4096) m' (n + 1)

/-- A tape 0 that TAPEBOOT can read: installed, loaded, at TS, idle, not failing, its first file fitting into
RAM from 0x20001000 (R455). -/
def State.bootTapeOk (s : State) : Bool :=
  let k := s.tapes[0]
  s.params.tapes.getLsbD 0 && k.cartridge.isSome && k.head = 0 && k.reg.busy.isNone && !k.reg.failing
    && 4096 + 4096 * (readFile k.blocks 0x20001000 [] 0).2 ≤ s.params.ramSize

/-- The machine after TAPEBOOT read the first file of tape 0. -/
def State.bootTapeRead (s : State) : State :=
  let k := s.tapes[0]
  let r := readFile k.blocks 0x20001000 s.mem 0
  let k' : Tape :=
    { k with
      reg := { k.reg with status := 1#32, command := 1#32, pending := false, data1 := none
                          data0 := BitVec.ofNat 32 (0x20000000 + 4096 * r.2) }
      head := r.2 }
  { s with mem := r.1, tapes := setDev s.tapes 0 k' }

/-- The general registers after the bootstrap: all open but $0 and $SP (R455). -/
def State.bootRegs (s : State) : Vector Word 32 :=
  Vector.ofFn fun r : Fin 32 => if r.val = 0 || r.val = 29 then s.gpr[r] else s.openReg r

/-- The boot sequence as one macro-step (R455). -/
def romBoot (s : State) : Result :=
  if regionOf s.params 0x20001004#32 4 ≠ .ram then .refused .bootProgramMissing
  else if s.params.bootFromTape && !s.bootTapeOk then .refused .bootTapeUnusable
  else
    let s1 := if s.params.bootFromTape then s.bootTapeRead else s
    .next (({ s1 with status := s1.status &&& 0xFFBFFFFF#32, gpr := s1.bootRegs } : State).startAt
      (s1.mem.readWord s1.params.bigEndian 0x20001004))

/-! ### The macro-step (R300) -/

/-- The clocks and controllers during `n` cycles of ROM code. -/
def State.runAgents : Nat → State → State
  | 0, s => s
  | n + 1, s => State.runAgents n s.agents

/-- The state a ROM routine is entered in: kernel-mode, VM off, interrupts off, no delay slot pending (R300). -/
def State.romEntry (s : State) : Bool :=
  !s.userMode && !s.vmOn && !s.interruptsOn && !s.inslot && s.npc = s.pc + 4#32

/-- Whether the fetch is of the ROM code that loads the last group of a FORK, in a state that code can run in. -/
def State.forkResumes (s : State) : Bool :=
  s.params.forkPauses && s.pc = s.params.forkResume && !s.userMode && !s.vmOn && !s.inslot && s.npc = s.pc + 4#32

/-- The routine that starts at `pc`, in a state it is entered in. -/
def romRoutine (s : State) : Result :=
  if s.pc = 0x00000000#32 then romRefill s
  else if s.pc = 0x00000080#32 then romExcpt s
  else if s.pc = 0x1FC00000#32 then romBoot s
  else .refused .romCodeNotDescribed

/-- A fetch from ROM at level 2: the routine that starts there, after the open number of further cycles it
takes (R300), or the rest of a FORK; ROM code the contract does not describe is refused (R300, R325). What the
routines leave in the ROM's own part of the ROM Reserved Frame, its stack, is not in the source: they leave it as
it was. DESIGN CHOICE (log entry 34). A load still pending, when software jumps to the routine with a load in the jump's
delay slot, reaches its register before the routine reads any: DESIGN CHOICE (log entry 16). -/
def romStep (s : State) : Result :=
  let s' := (State.runAgents (Config.freeNat .romCycles s.draws) s).commitLoad
  if s.forkResumes then .next (s'.forkLast s'.forkHeld)
  else if s.romEntry then romRoutine s'
  else .refused .romCodeNotDescribed

end Sys2Proof.Machine
end

