-- ==== Sys2Proof/Machine/Cycle.lean ====
section
/-! DEFINITION. One CPU step up to the instruction's own meaning (R250 phases 1 to 4): agents, interrupt
test, fetch, decode; and the placing of an instruction where the next step fetches. -/

namespace Sys2Proof.Machine

/-- What a step comes to before an instruction executes. -/
inductive Cycle where
  /-- the step's outcome: an exception entry, a ROM macro-step, or no meaning -/
  | done (r : Result)
  /-- an instruction to execute in a state -/
  | run (i : Instr) (s : State)

/-- A word in the instruction's place (R148 to R150, R272). -/
def decodeStep (s : State) (w : Word) : Cycle :=
  match decode s.params.tlbclrFunct w with
  | .ok i => .run i s
  | .error .reserved => .done (raise .ri s)
  | .error .cop0Reserved => .done (ifCop0Usable s (raise .ri s))
  | .error .unusedField => .done (.refused .unusedFieldNonZero)
  | .error .cop0UnusedField => .done (ifCop0Usable s (.refused .unusedFieldNonZero))

/-- Whether a physical address is in one of the two ROMs. -/
def inRom (p : Params) (pa : Word) : Bool :=
  match regionOf p pa 4 with
  | .execRom => true
  | .bootRom => true
  | _ => false

/-- The physical address of the next instruction, if its fetch reaches one. -/
def State.fetchAddr (s : State) : Option Word :=
  if misaligned .word s.pc then none
  else match s.resolve .fetch s.pc with
    | .ok pa => some pa
    | _ => none

/-- Whether the ROM contract replaces this fetch: it is on and the fetch is from ROM (R300). -/
def State.contractFetch (s : State) : Bool :=
  s.params.romContract &&
    match s.fetchAddr with
    | some pa => inRom s.params pa
    | none => false

/-- Phases 3 and 4: fetch and decode (R250). -/
def fetchStep (s : State) : Cycle :=
  if s.contractFetch then .done (romStep s)
  else match s.memRead .fetch .word s.pc with
    | .ok w => decodeStep s w
    | .raise e => .done (raise e s)
    | .refuse r => .done (.refused r)

/-- A step after the host's turn: the agents and the clock tick, then the interrupt test and the fetch; a run
that has ended only ticks (R250, R362, R495). A configuration outside R7 is refused (R420, R453, R456). -/
def State.machineTurn (s : State) : Cycle :=
  if !s.params.wf then .done (.refused .badConfiguration)
  else
    let s1 := s.agents
    if s1.ended.isSome then .done (.next s1)
    else if s1.interruptTaken then .done (raise .int s1)
    else fetchStep s1

/-- A step: what the host does before it is the first list of its actions still to come (R485), then the
machine's turn. -/
def State.cycle (s : State) : Cycle :=
  match s.inputs with
  | [] => s.machineTurn
  | acts :: rest => (({ s with inputs := rest } : State).hostActs acts).machineTurn

/-- An instruction's word stored where `pc` points, in the machine's byte order; every bit above `nbits` is
0. The next fetch reads it there whatever kind of memory it is (R80, R87). -/
def State.placeWord (s : State) (nbits w : Nat) : State :=
  let pa := s.fetchAddr.getD s.pc
  { s with mem := s.mem.writeWord s.params.bigEndian pa.toNat (BitVec.ofNat 32 (w % 2 ^ nbits)) }

end Sys2Proof.Machine
end

