-- ==== Sys2Proof/Machine/Flags.lean ====
section
/-! DEFINITION. "There are no condition flags" (R171): what stands in their place is the overflow test of
the trapping instructions (R172) and the comparisons (R189 to R192, R260 to R267), on exact integers. -/

namespace Sys2Proof.Machine

/-- The exact integer is outside -2^31 .. 2^31-1 (R172). -/
def outsideSigned (r : Int) : Bool := r < -2147483648 || 2147483648 ≤ r

/-- Signed overflow of a + b (R172). -/
def addOverflows (a b : Word) : Bool := outsideSigned (a.toInt + b.toInt)

/-- Signed overflow of a - b (R172). -/
def subOverflows (a b : Word) : Bool := outsideSigned (a.toInt - b.toInt)

/-- `signed(a) < signed(b)` (R189, R191). -/
def signedLess (a b : Word) : Bool := a.toInt < b.toInt

/-- `unsigned(a) < unsigned(b)` (R190, R192). -/
def unsignedLess (a b : Word) : Bool := a.toNat < b.toNat

/-- `signed(a) <= 0` (R262). -/
def signedNotPositive (a : Word) : Bool := a.toInt ≤ 0

/-- `a[31] = 1` (R264, R266). -/
def negative (a : Word) : Bool := a.getLsbD 31

end Sys2Proof.Machine
end

