-- ==== Sys2Proof/Machine/Alu.lean ====
section
/-! DEFINITION. 40_alu.md: arithmetic, logic, comparisons and shifts. -/

namespace Sys2Proof.Machine

/-- An instruction that writes a general register and goes on (R170). -/
def finish (s : State) (rd : RegIdx) (v : Word) : Result := .next (s.retire { write := some (rd, v) })

/-- The same, but Arithmetic Overflow when the exact result does not fit (R172). -/
def finishOrOverflow (s : State) (overflows : Bool) (rd : RegIdx) (v : Word) : Result :=
  if overflows then raise .ov s else finish s rd v

/-- ADD (R175). -/
def execAdd (rd rs rt : RegIdx) (s : State) : Result :=
  finishOrOverflow s (addOverflows (s.rs rs) (s.rt rt)) rd (s.rs rs + s.rt rt)

/-- ADDU (R176). -/
def execAddu (rd rs rt : RegIdx) (s : State) : Result := finish s rd (s.rs rs + s.rt rt)

/-- SUB (R177). -/
def execSub (rd rs rt : RegIdx) (s : State) : Result :=
  finishOrOverflow s (subOverflows (s.rs rs) (s.rt rt)) rd (s.rs rs - s.rt rt)

/-- SUBU (R178). -/
def execSubu (rd rs rt : RegIdx) (s : State) : Result := finish s rd (s.rs rs - s.rt rt)

/-- ADDI (R179). -/
def execAddi (rt rs : RegIdx) (imm : BitVec 16) (s : State) : Result :=
  finishOrOverflow s (addOverflows (s.rs rs) (sext16 imm)) rt (s.rs rs + sext16 imm)

/-- ADDIU (R180). -/
def execAddiu (rt rs : RegIdx) (imm : BitVec 16) (s : State) : Result := finish s rt (s.rs rs + sext16 imm)

/-- AND (R181). -/
def execAnd (rd rs rt : RegIdx) (s : State) : Result := finish s rd (s.rs rs &&& s.rt rt)

/-- OR (R182). -/
def execOr (rd rs rt : RegIdx) (s : State) : Result := finish s rd (s.rs rs ||| s.rt rt)

/-- XOR (R183). -/
def execXor (rd rs rt : RegIdx) (s : State) : Result := finish s rd (s.rs rs ^^^ s.rt rt)

/-- NOR (R184). -/
def execNor (rd rs rt : RegIdx) (s : State) : Result := finish s rd (~~~(s.rs rs ||| s.rt rt))

/-- ANDI (R185). -/
def execAndi (rt rs : RegIdx) (imm : BitVec 16) (s : State) : Result := finish s rt (s.rs rs &&& zext16 imm)

/-- ORI (R186). -/
def execOri (rt rs : RegIdx) (imm : BitVec 16) (s : State) : Result := finish s rt (s.rs rs ||| zext16 imm)

/-- XORI (R187). -/
def execXori (rt rs : RegIdx) (imm : BitVec 16) (s : State) : Result := finish s rt (s.rs rs ^^^ zext16 imm)

/-- LUI (R188). -/
def execLui (rt : RegIdx) (imm : BitVec 16) (s : State) : Result := finish s rt (imm ++ 0#16)

/-- SLT (R189). -/
def execSlt (rd rs rt : RegIdx) (s : State) : Result := finish s rd (boolWord (signedLess (s.rs rs) (s.rt rt)))

/-- SLTU (R190). -/
def execSltu (rd rs rt : RegIdx) (s : State) : Result :=
  finish s rd (boolWord (unsignedLess (s.rs rs) (s.rt rt)))

/-- SLTI (R191). -/
def execSlti (rt rs : RegIdx) (imm : BitVec 16) (s : State) : Result :=
  finish s rt (boolWord (signedLess (s.rs rs) (sext16 imm)))

/-- SLTIU (R192). -/
def execSltiu (rt rs : RegIdx) (imm : BitVec 16) (s : State) : Result :=
  finish s rt (boolWord (unsignedLess (s.rs rs) (sext16 imm)))

/-- SLL (R193). -/
def execSll (rd rt : RegIdx) (shamt : BitVec 5) (s : State) : Result := finish s rd (s.rt rt <<< shamt.toNat)

/-- SRL (R194). -/
def execSrl (rd rt : RegIdx) (shamt : BitVec 5) (s : State) : Result := finish s rd (s.rt rt >>> shamt.toNat)

/-- SRA (R195). -/
def execSra (rd rt : RegIdx) (shamt : BitVec 5) (s : State) : Result :=
  finish s rd ((s.rt rt).sshiftRight shamt.toNat)

/-- SLLV (R196). -/
def execSllv (rd rt rs : RegIdx) (s : State) : Result := finish s rd (s.rt rt <<< lowFive (s.rs rs))

/-- SRLV (R197). -/
def execSrlv (rd rt rs : RegIdx) (s : State) : Result := finish s rd (s.rt rt >>> lowFive (s.rs rs))

/-- SRAV (R198). -/
def execSrav (rd rt rs : RegIdx) (s : State) : Result :=
  finish s rd ((s.rt rt).sshiftRight (lowFive (s.rs rs)))

end Sys2Proof.Machine
end

