-- ==== Sys2Proof/Machine/Control.lean ====
section
/-! DEFINITION. 43_control.md: jumps and branches. -/

namespace Sys2Proof.Machine

/-- The end of a jump or branch: the next instruction is the delay slot, the one after it is at `target` if
there is one; `link` is written at once (R251, R255). In a delay slot it has no meaning (R253). -/
def finishBranch (s : State) (target : Option Word) (link : Option RegIdx) : Result :=
  if s.inslot then .refused .branchInDelaySlot
  else .next (s.retire { target := target, branch := true, write := link.map fun r => (r, s.linkValue) })

/-- A conditional branch's target when it is taken (R255). -/
def State.takenTo (s : State) (taken : Bool) (imm : BitVec 16) : Option Word :=
  if taken then some (s.branchTarget imm) else none

/-- J (R256). -/
def execJ (target : BitVec 26) (s : State) : Result := finishBranch s (some (s.jumpTarget target)) none

/-- JAL (R257). -/
def execJal (target : BitVec 26) (s : State) : Result :=
  finishBranch s (some (s.jumpTarget target)) (some 31#5)

/-- JR (R258). -/
def execJr (rs : RegIdx) (s : State) : Result := finishBranch s (some (s.rs rs)) none

/-- JALR (R259). -/
def execJalr (rd rs : RegIdx) (s : State) : Result := finishBranch s (some (s.rs rs)) (some rd)

/-- BEQ (R260). -/
def execBeq (rs rt : RegIdx) (imm : BitVec 16) (s : State) : Result :=
  finishBranch s (s.takenTo (s.rs rs = s.rt rt) imm) none

/-- BNE (R261). -/
def execBne (rs rt : RegIdx) (imm : BitVec 16) (s : State) : Result :=
  finishBranch s (s.takenTo (s.rs rs ≠ s.rt rt) imm) none

/-- BLEZ (R262). -/
def execBlez (rs : RegIdx) (imm : BitVec 16) (s : State) : Result :=
  finishBranch s (s.takenTo (signedNotPositive (s.rs rs)) imm) none

/-- BGTZ (R263). -/
def execBgtz (rs : RegIdx) (imm : BitVec 16) (s : State) : Result :=
  finishBranch s (s.takenTo (!signedNotPositive (s.rs rs)) imm) none

/-- BLTZ (R264). -/
def execBltz (rs : RegIdx) (imm : BitVec 16) (s : State) : Result :=
  finishBranch s (s.takenTo (negative (s.rs rs)) imm) none

/-- BGEZ (R265). -/
def execBgez (rs : RegIdx) (imm : BitVec 16) (s : State) : Result :=
  finishBranch s (s.takenTo (!negative (s.rs rs)) imm) none

/-- BLTZAL (R266): links whether or not it is taken; the condition is read before the link is written. -/
def execBltzal (rs : RegIdx) (imm : BitVec 16) (s : State) : Result :=
  finishBranch s (s.takenTo (negative (s.rs rs)) imm) (some 31#5)

/-- BGEZAL (R267). -/
def execBgezal (rs : RegIdx) (imm : BitVec 16) (s : State) : Result :=
  finishBranch s (s.takenTo (!negative (s.rs rs)) imm) (some 31#5)

end Sys2Proof.Machine
end

