-- ==== Sys2Proof/Machine/Coproc.lean ====
section
/-! DEFINITION. The words of coprocessors 1, 2 and 3: Coprocessor Unusable in both modes, "whatever the
other bits", and no memory access (R272, R293). -/

namespace Sys2Proof.Machine

/-- COP1 (R293). -/
def execCop1 (_any : BitVec 26) (s : State) : Result := raise (.cpu 1#2) s

/-- COP2 (R293). -/
def execCop2 (_any : BitVec 26) (s : State) : Result := raise (.cpu 2#2) s

/-- COP3 (R293). -/
def execCop3 (_any : BitVec 26) (s : State) : Result := raise (.cpu 3#2) s

/-- LWC1 (R293). -/
def execLwc1 (_any : BitVec 26) (s : State) : Result := raise (.cpu 1#2) s

/-- LWC2 (R293). -/
def execLwc2 (_any : BitVec 26) (s : State) : Result := raise (.cpu 2#2) s

/-- LWC3 (R293). -/
def execLwc3 (_any : BitVec 26) (s : State) : Result := raise (.cpu 3#2) s

/-- SWC1 (R293). -/
def execSwc1 (_any : BitVec 26) (s : State) : Result := raise (.cpu 1#2) s

/-- SWC2 (R293). -/
def execSwc2 (_any : BitVec 26) (s : State) : Result := raise (.cpu 2#2) s

/-- SWC3 (R293). -/
def execSwc3 (_any : BitVec 26) (s : State) : Result := raise (.cpu 3#2) s

end Sys2Proof.Machine
end

