-- ==== Sys2Proof/Machine/LoadStore.lean ====
section
/-! DEFINITION. 42_loadstore.md: loads, stores and the unaligned word accesses. -/

namespace Sys2Proof.Machine

/-- The end of a load: its value reaches the register one instruction later (R226); an exception leaves
nothing else changed (R227). -/
def finishLoad (s : State) (rt : RegIdx) (value : Word → Word) : Access Word → Result
  | .ok v => .next (s.retire { load := some (rt, value v) })
  | .raise e => raise e s
  | .refuse r => .refused r

/-- The end of a store (R227). -/
def finishStore (s : State) : Access State → Result
  | .ok s' => .next (s'.retire {})
  | .raise e => raise e s
  | .refuse r => .refused r

/-- The low byte of a word, sign-extended (R229). -/
def sextByte (w : Word) : Word := (w.setWidth 8).signExtend 32

/-- The low halfword of a word, sign-extended (R231). -/
def sextHalf (w : Word) : Word := (w.setWidth 16).signExtend 32

/-- LB (R229). -/
def execLb (rt rs : RegIdx) (imm : BitVec 16) (s : State) : Result :=
  finishLoad s rt sextByte (s.memRead .load .byte (s.effAddr rs imm))

/-- LBU (R230). -/
def execLbu (rt rs : RegIdx) (imm : BitVec 16) (s : State) : Result :=
  finishLoad s rt id (s.memRead .load .byte (s.effAddr rs imm))

/-- LH (R231). -/
def execLh (rt rs : RegIdx) (imm : BitVec 16) (s : State) : Result :=
  finishLoad s rt sextHalf (s.memRead .load .half (s.effAddr rs imm))

/-- LHU (R232). -/
def execLhu (rt rs : RegIdx) (imm : BitVec 16) (s : State) : Result :=
  finishLoad s rt id (s.memRead .load .half (s.effAddr rs imm))

/-- LW (R233). -/
def execLw (rt rs : RegIdx) (imm : BitVec 16) (s : State) : Result :=
  finishLoad s rt id (s.memRead .load .word (s.effAddr rs imm))

/-- SB (R234). -/
def execSb (rt rs : RegIdx) (imm : BitVec 16) (s : State) : Result :=
  finishStore s (s.memWrite .byte (s.effAddr rs imm) (s.rt rt))

/-- SH (R235). -/
def execSh (rt rs : RegIdx) (imm : BitVec 16) (s : State) : Result :=
  finishStore s (s.memWrite .half (s.effAddr rs imm) (s.rt rt))

/-- SW (R240). -/
def execSw (rt rs : RegIdx) (imm : BitVec 16) (s : State) : Result :=
  finishStore s (s.memWrite .word (s.effAddr rs imm) (s.rt rt))

/-- The position of the addressed byte in its word, on this machine (R241). -/
def State.position (s : State) (va : Word) : Nat := bytePosition s.params.bigEndian va

/-- LWL (R236). -/
def execLwl (rt rs : RegIdx) (imm : BitVec 16) (s : State) : Result :=
  finishLoad s rt (fun w => mergeLwl (s.position (s.effAddr rs imm)) w (s.forwarded rt))
    (s.readAround (s.effAddr rs imm))

/-- LWR (R237). -/
def execLwr (rt rs : RegIdx) (imm : BitVec 16) (s : State) : Result :=
  finishLoad s rt (fun w => mergeLwr (s.position (s.effAddr rs imm)) w (s.forwarded rt))
    (s.readAround (s.effAddr rs imm))

/-- SWL (R238). -/
def execSwl (rt rs : RegIdx) (imm : BitVec 16) (s : State) : Result :=
  finishStore s (s.writeAround (s.effAddr rs imm)
    fun w => mergeSwl (s.position (s.effAddr rs imm)) w (s.rt rt))

/-- SWR (R239). -/
def execSwr (rt rs : RegIdx) (imm : BitVec 16) (s : State) : Result :=
  finishStore s (s.writeAround (s.effAddr rs imm)
    fun w => mergeSwr (s.position (s.effAddr rs imm)) w (s.rt rt))

end Sys2Proof.Machine
end

