-- ==== Sys2Proof/Machine/MulDiv.lean ====
section
/-! DEFINITION. 41_muldiv.md: multiplication, division and the HI and LO registers. -/

namespace Sys2Proof.Machine

/-- An instruction that writes HI and LO and goes on (R210). -/
def finishHiLo (s : State) (hi lo : Word) : Result := .next (({ s with hi := hi, lo := lo } : State).retire {})

/-- A 64-bit product into HI and LO (R212, R213). -/
def finishProduct (s : State) (p : BitVec 64) : Result :=
  finishHiLo s (p.extractLsb' 32 32) (p.extractLsb' 0 32)

/-- The signed product, exact (R212). -/
def signedProduct (a b : Word) : BitVec 64 := BitVec.ofInt 64 (a.toInt * b.toInt)

/-- The unsigned product, exact (R213). -/
def unsignedProduct (a b : Word) : BitVec 64 := BitVec.ofNat 64 (a.toNat * b.toNat)

/-- The operands of DIV whose results the spec leaves open (R214). -/
def divOpen (a b : Word) : Bool := b = 0#32 || (a = 0x80000000#32 && b = 0xFFFFFFFF#32)

/-- The signed quotient, truncated toward zero (R214). -/
def signedQuotient (a b : Word) : Word := BitVec.ofInt 32 (a.toInt.tdiv b.toInt)

/-- The signed remainder, with the sign of the dividend (R214). -/
def signedRemainder (a b : Word) : Word := BitVec.ofInt 32 (a.toInt.tmod b.toInt)

/-- HI and LO after a division without a result: two open values (R214, R215). -/
def finishOpen (s : State) : Result :=
  finishHiLo s (Config.freeWord .divHi s.draws) (Config.freeWord .divLo s.draws)

/-- MULT (R212). -/
def execMult (rs rt : RegIdx) (s : State) : Result := finishProduct s (signedProduct (s.rs rs) (s.rt rt))

/-- MULTU (R213). -/
def execMultu (rs rt : RegIdx) (s : State) : Result := finishProduct s (unsignedProduct (s.rs rs) (s.rt rt))

/-- DIV (R214). -/
def execDiv (rs rt : RegIdx) (s : State) : Result :=
  if divOpen (s.rs rs) (s.rt rt) then finishOpen s
  else finishHiLo s (signedRemainder (s.rs rs) (s.rt rt)) (signedQuotient (s.rs rs) (s.rt rt))

/-- DIVU (R215). -/
def execDivu (rs rt : RegIdx) (s : State) : Result :=
  if s.rt rt = 0#32 then finishOpen s
  else finishHiLo s (BitVec.ofNat 32 ((s.rs rs).toNat % (s.rt rt).toNat))
    (BitVec.ofNat 32 ((s.rs rs).toNat / (s.rt rt).toNat))

/-- MFHI (R216). -/
def execMfhi (rd : RegIdx) (s : State) : Result := finish s rd s.hi

/-- MTHI (R217). -/
def execMthi (rs : RegIdx) (s : State) : Result := finishHiLo s (s.rs rs) s.lo

/-- MFLO (R218). -/
def execMflo (rd : RegIdx) (s : State) : Result := finish s rd s.lo

/-- MTLO (R219). -/
def execMtlo (rs : RegIdx) (s : State) : Result := finishHiLo s s.hi (s.rs rs)

end Sys2Proof.Machine
end

