-- ==== Sys2Proof/Machine/System.lean ====
section
/-! DEFINITION. 44_system.md: SYSCALL, BREAK, the moves to and from CP0, the TLB instructions, RFE. -/

namespace Sys2Proof.Machine

/-- An instruction that only changed what `s` already shows, and goes on. -/
def proceed (s : State) : Result := .next (s.retire {})

/-- SYSCALL (R273). -/
def execSyscall (_code : BitVec 20) (s : State) : Result := raise .sys s

/-- BREAK (R274). -/
def execBrk (_code : BitVec 20) (s : State) : Result := raise .bp s

/-- MFC0 (R275): the value arrives with a load's delay. -/
def execMfc0 (rt rd : RegIdx) (s : State) : Result :=
  ifCop0Usable s <|
    match s.cp0Read rd with
    | some v => .next (s.retire { load := some (rt, v) })
    | none => .refused .noSuchCp0Register

/-- MTC0 (R276). -/
def execMtc0 (rt rd : RegIdx) (s : State) : Result :=
  ifCop0Usable s <|
    match s.cp0Write rd (s.rt rt) with
    | some s' => proceed s'
    | none => .refused .noSuchCp0Register

/-- TLBWI (R281). -/
def execTlbwi (s : State) : Result :=
  ifCop0Usable s <|
    if s.tlbHas s.indexIndex then proceed { s with tlb := setTlb s.tlb s.indexIndex s.entryPair }
    else .refused .tlbIndexOutOfRange

/-- TLBWR (R282). -/
def execTlbwr (s : State) : Result :=
  ifCop0Usable s (proceed { s with tlb := setTlb s.tlb s.randomIndex s.entryPair })

/-- TLBR (R283). -/
def execTlbr (s : State) : Result :=
  ifCop0Usable s <|
    if s.tlbHas s.indexIndex then
      proceed { s with entryHi := (s.tlbAt s.indexIndex.toNat).hi, entryLo := (s.tlbAt s.indexIndex.toNat).lo }
    else .refused .tlbIndexOutOfRange

/-- TLBCLR (R284). -/
def execTlbclr (s : State) : Result := ifCop0Usable s (proceed { s with tlb := s.tlbCleared })

/-- TLBP (R285). -/
def execTlbp (s : State) : Result := ifCop0Usable s (proceed { s with index := s.probed })

/-- RFE (R290). -/
def execRfe (s : State) : Result := ifCop0Usable s (proceed s.returnFromException)

end Sys2Proof.Machine
end

