-- ==== Sys2Proof/Machine/Step.lean ====
section
/-! DEFINITION. The step of the machine (R250). -/

namespace Sys2Proof.Machine

/-- One CPU step (R250). -/
def step (s : State) : Host.Outcome State Fault Refusal :=
  match s.cycle with
  | .done r => r
  | .run i s' => exec i s'

/-- An instruction placed where the step fetches its next instruction. -/
def State.withFetchWord (s : State) (nbits w : Nat) : State := s.placeWord nbits w

end Sys2Proof.Machine
end

