-- ==== Sys2Proof/Safety.lean ====
section
/-! DEFINITION. The words statements use: what an instruction leaves unchanged, when it goes on to the next
instruction, what an exception entry is, and the invariant of the machine. -/

namespace Sys2Proof.Machine

/-! ### Frames -/

/-- Every CP0 register, the TLB, the clocks, the devices, and the model's own fields are the same. -/
structure SameSystem (s t : State) : Prop where
  params : t.params = s.params
  index : t.index = s.index
  random : t.random = s.random
  entryLo : t.entryLo = s.entryLo
  badVAddr : t.badVAddr = s.badVAddr
  entryHi : t.entryHi = s.entryHi
  status : t.status = s.status
  cause : t.cause = s.cause
  epc : t.epc = s.epc
  tlb : t.tlb = s.tlb
  tod : t.tod = s.tod
  timer : t.timer = s.timer
  timerPending : t.timerPending = s.timerPending
  disks : t.disks = s.disks
  tapes : t.tapes = s.tapes
  printers : t.printers = s.printers
  terminals : t.terminals = s.terminals
  ended : t.ended = s.ended
  inputs : t.inputs = s.inputs
  draws : t.draws = s.draws

/-- The same but for the eight CP0 registers and the TLB, about which nothing is said. -/
structure SameOutside (s t : State) : Prop where
  params : t.params = s.params
  tod : t.tod = s.tod
  timer : t.timer = s.timer
  timerPending : t.timerPending = s.timerPending
  disks : t.disks = s.disks
  tapes : t.tapes = s.tapes
  printers : t.printers = s.printers
  terminals : t.terminals = s.terminals
  ended : t.ended = s.ended
  inputs : t.inputs = s.inputs
  draws : t.draws = s.draws

/-- HI and LO are the same. -/
def SameHiLo (s t : State) : Prop := t.hi = s.hi ∧ t.lo = s.lo

/-- Every byte of memory reads the same. -/
def SameMemory (s t : State) : Prop := ∀ a : Nat, t.mem.read a = s.mem.read a

/-- The value a register has once a pending load has reached it: 0 for $0 (R21, R226). -/
def State.settled (s : State) (r : RegIdx) : Word := if r = 0#5 then 0#32 else s.forwarded r

/-- Every register is the same, the pending load having reached its own. -/
def SameRegs (s t : State) : Prop := ∀ r : RegIdx, t.reg r = s.settled r

/-- Register `rd` holds `v`, unless it is $0, which still reads 0; every other register is the same, the
pending load having reached its own. -/
def WroteReg (s t : State) (rd : RegIdx) (v : Word) : Prop :=
  t.reg rd = (if rd = 0#5 then 0#32 else v) ∧ ∀ r : RegIdx, r ≠ rd → t.reg r = s.settled r

/-- The address of the instruction after the next when nothing jumps: 4 beyond it, or what the host has just made of
succPC (R250 phase 4, R485; log entry 13). -/
def nextButOne (s : State) : Word := s.succPc.getD (s.npc + 4#32)

/-- The machine goes on with the instruction at `npc`, which is in no delay slot (R250 phases 4 and 6). -/
def GoesOn (s t : State) : Prop := t.pc = s.npc ∧ t.npc = nextButOne s ∧ t.succPc = none ∧ t.inslot = false

/-- An instruction whose one effect is that register `rd` holds `v` at once. -/
def WritesOnly (s t : State) (rd : RegIdx) (v : Word) : Prop :=
  WroteReg s t rd v ∧ t.ldelay = none ∧ GoesOn s t ∧ SameHiLo s t ∧ SameMemory s t ∧ SameSystem s t

/-- An instruction whose one effect is that a load of `v` into `rd` is pending, none for $0 (R226). -/
def LoadsOnly (s t : State) (rd : RegIdx) (v : Word) : Prop :=
  t.ldelay = (if rd = 0#5 then none else some (rd, v))
    ∧ (∀ r : RegIdx, r ≠ rd → t.reg r = s.settled r)
    ∧ GoesOn s t ∧ SameHiLo s t ∧ SameMemory s t ∧ SameSystem s t

/-- An instruction that changes no general register, HI or LO, and goes on. -/
def KeepsRegs (s t : State) : Prop := SameRegs s t ∧ t.ldelay = none ∧ GoesOn s t ∧ SameHiLo s t

/-- An instruction that changes nothing but HI and LO, and goes on. -/
def HiLoOnly (s t : State) : Prop := SameRegs s t ∧ t.ldelay = none ∧ GoesOn s t ∧ SameMemory s t ∧ SameSystem s t

/-- An instruction that changes nothing but memory, and goes on. -/
def MemoryOnly (s t : State) : Prop := KeepsRegs s t ∧ SameSystem s t

/-- A jump or branch: the next instruction is the one at `npc`, in the delay slot; the one after it is at
`target`. -/
def Branches (s t : State) (target : Word) : Prop :=
  t.pc = s.npc ∧ t.npc = target ∧ t.succPc = none ∧ t.inslot = true ∧ t.ldelay = none ∧ SameHiLo s t ∧ SameMemory s t
    ∧ SameSystem s t

/-! ### Exception entry -/

/-- Bit `i` of a word. -/
def bitAt (w : Word) (i : Nat) : Bool := w.getLsbD i

/-- The push of the KU/IE and VM stacks, every other bit of Status the same (R352). -/
def Pushed (old new : Word) : Prop :=
  bitAt new 5 = bitAt old 3 ∧ bitAt new 4 = bitAt old 2
    ∧ bitAt new 3 = bitAt old 1 ∧ bitAt new 2 = bitAt old 0
    ∧ bitAt new 1 = false ∧ bitAt new 0 = false
    ∧ bitAt new 26 = bitAt old 25 ∧ bitAt new 25 = bitAt old 24 ∧ bitAt new 24 = false
    ∧ ∀ i, 6 ≤ i → i ≤ 31 → i ≠ 24 → i ≠ 25 → i ≠ 26 → bitAt new i = bitAt old i

/-- The pop of both stacks, the old bits and every other bit of Status the same (R290). -/
def Popped (old new : Word) : Prop :=
  bitAt new 0 = bitAt old 2 ∧ bitAt new 1 = bitAt old 3
    ∧ bitAt new 2 = bitAt old 4 ∧ bitAt new 3 = bitAt old 5
    ∧ bitAt new 24 = bitAt old 25 ∧ bitAt new 25 = bitAt old 26
    ∧ ∀ i, 4 ≤ i → i ≤ 31 → i ≠ 24 → i ≠ 25 → bitAt new i = bitAt old i

/-- What every exception entry with code `code` does, whatever the exception (R350 steps 1, 2, 3 and 5), and
what none touches. -/
structure Enters (s t : State) (code : BitVec 5) (vector : Word) : Prop where
  epc : t.epc = if s.inslot then s.pc - 4#32 else s.pc
  bd : bitAt t.cause 31 = s.inslot
  excCode : t.cause.extractLsb' 2 5 = code
  status : Pushed s.status t.status
  pc : t.pc = vector
  npc : t.npc = vector + 4#32
  succPc : t.succPc = none
  inslot : t.inslot = false
  softwareLines : t.cause.extractLsb' 8 2 = s.cause.extractLsb' 8 2
  asid : t.entryHi.extractLsb' 0 12 = s.entryHi.extractLsb' 0 12
  index : t.index = s.index
  random : t.random = s.random
  entryLo : t.entryLo = s.entryLo
  tlb : t.tlb = s.tlb
  regs : SameRegs s t
  ldelay : t.ldelay = none
  hiLo : SameHiLo s t
  memory : SameMemory s t
  outside : SameOutside s t

/-- The vector of an exception that is no TLB-Refill event (R354). -/
def generalVector (s : State) : Word := if bitAt s.status 22 then 0x1FC00180#32 else 0x00000080#32

/-- The vector of a TLB-Refill event (R354, R356). -/
def refillVector (s : State) : Word := if bitAt s.status 22 then 0x1FC00100#32 else 0x00000000#32

/-- BadVAddr and the whole of EntryHi are the same. -/
def SameAddresses (s t : State) : Prop := t.badVAddr = s.badVAddr ∧ t.entryHi = s.entryHi

/-- An exception entry that records no address (R353). -/
def EntersPlain (s t : State) (code : BitVec 5) : Prop :=
  Enters s t code (generalVector s) ∧ SameAddresses s t

/-- An Address Error entry (R353). -/
def EntersAddress (s t : State) (code : BitVec 5) (va : Word) : Prop :=
  Enters s t code (generalVector s) ∧ t.badVAddr = va ∧ t.entryHi = s.entryHi

/-- A TLB exception's entry, or with `vector` that of a TLB-Refill event (R353, R356). -/
def EntersTlb (s t : State) (code : BitVec 5) (va vector : Word) : Prop :=
  Enters s t code vector ∧ t.badVAddr = va ∧ t.entryHi.extractLsb' 12 20 = va.extractLsb' 12 20

/-! ### Which word a step executes -/

/-- The state in which a step tests for interrupts and fetches: after the host's actions of this step, if any,
and after the device controllers and the clocks (R250 phase 1, R485). -/
def AfterAgents (s u : State) : Prop :=
  (s.inputs = [] ∧ u = s.agents)
    ∨ ∃ acts rest, s.inputs = acts :: rest ∧ u = (({ s with inputs := rest } : State).hostActs acts).agents

/-- The step of `s` fetches the word `w`, in the state `u`: the configuration is allowed, the run has not ended,
no interrupt is taken, no ROM macro-step replaces the fetch, and the fetch answers `w` (R250, R300, R495). -/
def Fetches (s u : State) (w : Word) : Prop :=
  AfterAgents s u ∧ u.params.wf = true ∧ u.ended = none ∧ u.interruptTaken = false ∧ u.contractFetch = false
    ∧ u.memRead .fetch .word u.pc = .ok w

/-- The machine comes to fetch in the state `u`: the configuration is allowed, the run has not ended and no
interrupt is taken (R250 phases 1 and 2). -/
def ReadyToFetch (s u : State) : Prop :=
  AfterAgents s u ∧ u.params.wf = true ∧ u.ended = none ∧ u.interruptTaken = false

/-! ### The general register an instruction writes -/

/-- The general register an instruction writes, or loads, when it completes: $31 for the links (R23). -/
def written : Instr → Option RegIdx
  | .add rd _ _ | .addu rd _ _ | .sub rd _ _ | .subu rd _ _ => some rd
  | .addi rt _ _ | .addiu rt _ _ => some rt
  | .and rd _ _ | .or rd _ _ | .xor rd _ _ | .nor rd _ _ => some rd
  | .andi rt _ _ | .ori rt _ _ | .xori rt _ _ | .lui rt _ => some rt
  | .slt rd _ _ | .sltu rd _ _ => some rd
  | .slti rt _ _ | .sltiu rt _ _ => some rt
  | .sll rd _ _ | .srl rd _ _ | .sra rd _ _ | .sllv rd _ _ | .srlv rd _ _ | .srav rd _ _ => some rd
  | .mult _ _ | .multu _ _ | .div _ _ | .divu _ _ | .mthi _ | .mtlo _ => none
  | .mfhi rd | .mflo rd => some rd
  | .lb rt _ _ | .lbu rt _ _ | .lh rt _ _ | .lhu rt _ _ | .lw rt _ _ | .lwl rt _ _ | .lwr rt _ _ => some rt
  | .sb _ _ _ | .sh _ _ _ | .sw _ _ _ | .swl _ _ _ | .swr _ _ _ => none
  | .j _ | .jr _ => none
  | .jal _ | .bltzal _ _ | .bgezal _ _ => some 31#5
  | .jalr rd _ => some rd
  | .beq _ _ _ | .bne _ _ _ | .blez _ _ | .bgtz _ _ | .bltz _ _ | .bgez _ _ => none
  | .mfc0 rt _ => some rt
  | .mtc0 _ _ | .tlbwi | .tlbwr | .tlbr | .tlbclr | .tlbp | .rfe | .syscall _ | .brk _ => none
  | .cop1 _ | .cop2 _ | .cop3 _ | .lwc1 _ | .lwc2 _ | .lwc3 _ | .swc1 _ | .swc2 _ | .swc3 _ => none

/-! ### The loads and stores -/

/-- The seven loads with one set of operands (R229 to R233, R236, R237). -/
def loadsOf (rt rs : RegIdx) (imm : BitVec 16) : List Instr :=
  [.lb rt rs imm, .lbu rt rs imm, .lh rt rs imm, .lhu rt rs imm, .lw rt rs imm, .lwl rt rs imm, .lwr rt rs imm]

/-- The five stores with one set of operands (R234, R235, R238 to R240). -/
def storesOf (rt rs : RegIdx) (imm : BitVec 16) : List Instr :=
  [.sb rt rs imm, .sh rt rs imm, .sw rt rs imm, .swl rt rs imm, .swr rt rs imm]

/-- Whether an instruction may access an address without an alignment error (R88). -/
def mayAccess : Instr → Word → Bool
  | .lh .., va => va.toNat % 2 = 0
  | .lhu .., va => va.toNat % 2 = 0
  | .sh .., va => va.toNat % 2 = 0
  | .lw .., va => va.toNat % 4 = 0
  | .sw .., va => va.toNat % 4 = 0
  | _, _ => true

/-- An access to `va` comes to the physical address `pa`: `va` itself in kernel-mode with VM off or below 0x20000000
and in user-mode with VM off from 0x20000000 up, else the frame of the TLB slot translation uses, which is valid, and
writable for a store (R89, R102, R104, R105; log entry 36). -/
def State.comesTo (s : State) (store : Bool) (va pa : Word) : Prop :=
  (pa = va ∧ bitAt s.status 1 = false ∧ (bitAt s.status 24 = false ∨ va.toNat < 0x20000000))
    ∨ (pa = va ∧ bitAt s.status 1 = true ∧ bitAt s.status 24 = false ∧ 0x20000000 ≤ va.toNat)
    ∨ (bitAt s.status 24 = true ∧ 0x20000000 ≤ va.toNat ∧ (bitAt s.status 1 = true → 0x80000000 ≤ va.toNat)
      ∧ ∃ k, s.tlbLookup (va.extractLsb' 12 20) = some k ∧ bitAt (s.tlbAt k).lo 9 = true
        ∧ (store = true → bitAt (s.tlbAt k).lo 10 = true)
        ∧ pa = (s.tlbAt k).lo.extractLsb' 12 20 ++ va.extractLsb' 0 12)

/-- A physical address where nothing is installed (R82, R93). -/
def notInstalled (p : Params) (pa : Word) : Prop :=
  (p.romSize ≤ pa.toNat ∧ pa.toNat < 0x10000000) ∨ (0x100002D0 ≤ pa.toNat ∧ pa.toNat < 0x1FC00000)
    ∨ (0x1FC00000 + p.bootSize ≤ pa.toNat ∧ pa.toNat < 0x20000000) ∨ 0x20000000 + p.ramSize ≤ pa.toNat

/-! ### The bus and device area -/

/-- The words of the bus register area and of the Installed Devices Bit Map: address and value (R380, R387). -/
def busWords (s : State) : List (Nat × Word) :=
  [(0x10000000, 0x20000000#32), (0x10000004, BitVec.ofNat 32 s.params.ramSize), (0x10000008, 0#32),
    (0x1000000C, BitVec.ofNat 32 s.params.romSize), (0x10000010, 0x1FC00000#32),
    (0x10000014, BitVec.ofNat 32 s.params.bootSize), (0x10000018, s.tod.extractLsb' 32 32),
    (0x1000001C, s.tod.extractLsb' 0 32), (0x10000020, s.timer), (0x10000024, s.params.timeScale),
    (0x10000028, s.params.disks.setWidth 32), (0x1000002C, s.params.tapes.setWidth 32), (0x10000030, 0#32),
    (0x10000034, s.params.printers.setWidth 32), (0x10000038, s.params.terminals.setWidth 32)]

/-- Whether device `d` of a line has an interrupt pending (R62, R434): no network device ever (R420). -/
def State.interruptPending (s : State) (line : Nat) (d : DevNo) : Bool :=
  match line with
  | 3 => s.disks[d].reg.pending
  | 4 => s.tapes[d].reg.pending
  | 6 => s.printers[d].reg.pending
  | 7 => s.terminals[d].recv.pending || s.terminals[d].transm.pending
  | _ => false

/-- The address of word `f` of the register of device `d` on a line (R395). -/
def deviceAddr (line : Nat) (d : DevNo) (f : Nat) : Nat := 0x10000050 + (line - 3) * 0x80 + d.val * 0x10 + f * 4

/-- What DATA1 of a tape shows (R416): the host's word if it put one there (R485, log entry 12); else, idle, EOT 0
without a cartridge, TS 3 at marker 0, EOT 0 at the last marker, and between them EOF 1 or EOB 2 as the block before the
marker ends a file or not. A busy tape's own DATA1 is open. -/
def Tape.showsData1 (k : Tape) (w : Word) : Prop :=
  (∀ v, k.reg.data1 = some v → w = v)
    ∧ (k.reg.data1 = none → k.reg.busy = none →
      (k.cartridge = none → w = 0#32)
        ∧ ∀ blocks, k.cartridge = some blocks →
          (k.head = 0 → w = 3#32) ∧ (0 < k.head → k.head = blocks.length → w = 0#32)
            ∧ ∀ (p : Nat) (b : TapeBlock), k.head = p + 1 → k.head < blocks.length → blocks[p]? = some b →
              w = if b.endsFile then 1#32 else 2#32)

/-- What word `f` of device `d` of a line shows: STATUS, COMMAND, DATA0 and DATA1 of a disk, tape or printer, the
two pairs of a terminal, 0 in every word of a device that is not installed (R395, R397, R406, R416, R420, R421, R425).
DATA1 of a disk is its geometry, of a printer 0, where the host put no word there (R485, log entry 12). -/
def State.deviceShows (s : State) (line : Nat) (d : DevNo) (f : Nat) (w : Word) : Prop :=
  let regs (installed : Bool) (r : DevReg) (data1 : Prop) : Prop :=
    if installed then
      match f with
      | 0 => w = r.status
      | 1 => w = r.command
      | 2 => w = r.data0
      | _ => data1
    else w = 0#32
  match line with
  | 3 =>
    let g := s.params.diskGeom[d]
    regs (s.params.disks.getLsbD d) s.disks[d].reg
      (w = (s.disks[d].reg.data1.getD (g.maxCyl ++ g.maxHead ++ g.maxSect)))
  | 4 => regs (s.params.tapes.getLsbD d) s.tapes[d].reg (s.tapes[d].showsData1 w)
  | 6 => regs (s.params.printers.getLsbD d) s.printers[d].reg (w = s.printers[d].reg.data1.getD 0#32)
  | 7 =>
    let k := s.terminals[d]
    w = if s.params.terminals.getLsbD d then
      (match f with
        | 0 => k.recv.status
        | 1 => k.recv.command
        | 2 => k.transm.status
        | _ => k.transm.command)
      else 0#32
  | _ => w = 0#32

/-! ### The invariant -/

/-- The status code of a device, STATUS[7:0] (R401). -/
def DevReg.code (r : DevReg) : BitVec 8 := r.status.extractLsb' 0 8

/-- STATUS holds `code` and else 0, but for a terminal's character field (R401, R427). -/
def DevReg.shows (r : DevReg) (terminal : Bool) (code : BitVec 8) : Prop :=
  r.code = code ∧ if terminal then r.status.extractLsb' 16 16 = 0#16 else r.status.extractLsb' 8 24 = 0#24

/-- A device shows Device Busy exactly while it is busy, and has no interrupt pending then (R396). -/
def DevReg.sound (r : DevReg) : Bool :=
  (r.busy.isSome == decide (r.code = 3#8)) && !(r.busy.isSome && r.pending)

/-- An idle terminal sub-device has its pending bit on exactly when its status byte is 2, 4 or 5 (R429). -/
def DevReg.terminalSound (r : DevReg) : Bool :=
  r.sound && (r.busy.isSome || r.pending == (decide (r.code = 2#8) || decide (r.code = 4#8) || decide (r.code = 5#8)))

/-- Every device follows the protocol of R396. -/
def State.devicesSound (s : State) : Bool :=
  s.disks.toList.all (fun k => k.reg.sound) && s.tapes.toList.all (fun k => k.reg.sound)
    && s.printers.toList.all (fun k => k.reg.sound)
    && s.terminals.toList.all (fun k => k.recv.terminalSound && k.transm.terminalSound)

/-- Whether the host edits a device register, which the protocol cannot answer for. -/
def HostAct.editsDevice : HostAct → Bool
  | .setWord pa _ => pa.toNat < 0x20000000
  | _ => false

/-- No edit of a device register is among the host's actions still to come. -/
def State.noDeviceEdits (s : State) : Bool := s.inputs.all fun acts => acts.all fun a => !a.editsDevice

/-- Random.TLB-Index is in 1..TLBSIZE-1 and no other bit of Random is set (R56). -/
def State.randomOk (s : State) : Bool :=
  1 ≤ s.randomIndex.toNat && s.randomIndex.toNat < s.params.tlbSize && s.random &&& 0xFFFFC0FF#32 = 0#32

/-- The memory's invariant: every byte storage is in its canonical form and every cartridge is one R415
allows. -/
def State.storageOk (s : State) : Bool :=
  s.mem.wf && s.disks.toList.all (fun k => k.image.wf)
    && s.tapes.toList.all (fun k => match k.cartridge with
        | some blocks => cartridgeOk blocks
        | none => true)

/-- Media a machine can have: disk images in canonical form, cartridges R415 allows. -/
def Media.ok (m : Media) : Bool :=
  m.diskImages.toList.all Memory.wf
    && m.cartridges.toList.all fun c => match c with
      | some blocks => cartridgeOk blocks
      | none => true

/-- The CPU's invariant: CU[3:1] are 0 (R40), a pending load is never into $0 (R21, R226), Random is in its
range in an allowed configuration (R56). -/
def State.cpuOk (s : State) : Bool :=
  s.status &&& 0xE0000000#32 = 0#32
    && (match s.ldelay with
        | some (r, _) => r ≠ 0#5
        | none => true)
    && (!s.params.wf || s.randomOk)

/-- The invariant every step keeps. -/
def State.inv (s : State) : Bool := s.storageOk && s.cpuOk

/-! ### STST (R331) -/

/-- Instructions executed one after another, with nothing between them: the first outcome that is no next state,
or the state after the last. -/
def runAll : List Instr → State → Result
  | [], s => .next s
  | i :: rest, s =>
    match exec i s with
    | .next t => runAll rest t
    | r => r

/-- The 35 words STST leaves at `statep` when called in `s`: EntryHi, Cause and Status as MFC0 reads them, 0 in the PC
slot, the general registers, of which $v0 is the routine's scratch and holds Status, HI and LO (R331). -/
def State.ststWords (s : State) : List Word :=
  [s.entryHi, s.causeRead, s.status, 0#32, s.reg 1#5, s.status]
    ++ ([3#5, 4#5, 5#5, 6#5, 7#5, 8#5, 9#5, 10#5, 11#5, 12#5, 13#5, 14#5, 15#5, 16#5, 17#5, 18#5, 19#5, 20#5, 21#5,
      22#5, 23#5, 24#5, 25#5, 28#5, 29#5, 30#5, 31#5] : List RegIdx).map s.reg
    ++ [s.hi, s.lo]

/-! ### Runs -/

/-- `t` is reached from `s` by steps that all answered a next state: a safe run. -/
inductive Reaches : State → State → Prop where
  | refl (s : State) : Reaches s s
  | step {s t u : State} (h : Reaches s t) (hu : Sys2Proof.Machine.step t = .next u) : Reaches s u

end Sys2Proof.Machine
end

