-- ==== Sys2Proof/Certificates/Slice0/Obligations.lean ====
section
/-! DEFINITION. The statements for the provers, from the numbered rules of spec/. Words such as `WritesOnly`,
`Enters` and `Fetches` are defined in Sys2Proof/Safety.lean. An operand is written `s.rs r` or `s.rt r`: the
register's value, or an open value in the slot after a load into it (`Obligations.OperandReads`). -/

open Sys2Proof Sys2Proof.Machine

/-! ### Encoding -/

/-- Decoding the word of any instruction gives that instruction back, whatever `TLBCLR_FUNCT` R146 allows. -/
def Obligations.DecodeOfEncode : Prop :=
  ∀ (tc : BitVec 6) (i : Instr), tlbclrFunctOk tc = true → decode tc (encode tc i) = .ok i

/-- A word that decodes to an instruction is that instruction's one word: no bit of a word is dropped. -/
def Obligations.EncodeOfDecode : Prop :=
  ∀ (tc : BitVec 6) (w : Word) (i : Instr), decode tc w = .ok i → encode tc i = w

/-- A few words that the spec's rules print, one or two a family. -/
def Obligations.PrintedWordsDecode : Prop :=
  decode 0x3F#6 0x00221820#32 = .ok (.add 3#5 1#5 2#5)
    ∧ decode 0x3F#6 0x2422FFFF#32 = .ok (.addiu 2#5 1#5 0xFFFF#16)
    ∧ decode 0x3F#6 0x00021900#32 = .ok (.sll 3#5 2#5 4#5)
    ∧ decode 0x3F#6 0x0022001A#32 = .ok (.div 1#5 2#5)
    ∧ decode 0x3F#6 0x8C22FFFC#32 = .ok (.lw 2#5 1#5 0xFFFC#16)
    ∧ decode 0x3F#6 0xB8220008#32 = .ok (.swr 2#5 1#5 8#16)
    ∧ decode 0x3F#6 0x0C000410#32 = .ok (.jal 0x410#26)
    ∧ decode 0x3F#6 0x1422FFFE#32 = .ok (.bne 1#5 2#5 0xFFFE#16)
    ∧ decode 0x3F#6 0x40826000#32 = .ok (.mtc0 2#5 12#5)
    ∧ decode 0x3F#6 0x42000010#32 = .ok .rfe
    ∧ decode 0x3F#6 0xC4200000#32 = .ok (.lwc1 0x0200000#26)

/-- A step whose fetched word decodes to an instruction is that instruction's meaning, in the state after the
agents. -/
def Obligations.StepRunsDecodedInstruction : Prop :=
  ∀ (s u : State) (w : Word) (i : Instr),
    Fetches s u w → decode u.params.tlbclrFunct w = .ok i → step s = exec i u

/-- The words no instruction matches take the Reserved Instruction exception, code 10: the unassigned primary
opcodes, SPECIAL functs and REGIMM rts (R143 to R145, R149), and, where coprocessor 0 is usable, its unassigned words
with LWC0 and SWC0; where it is not, these take Coprocessor Unusable with CE 0 (R149, R294). -/
def Obligations.UnassignedOpcodesTrap : Prop :=
  ∀ (s u : State) (w : Word), Fetches s u w →
    ((opOf w ∈ [0x14#6, 0x15#6, 0x16#6, 0x17#6, 0x18#6, 0x19#6, 0x1A#6, 0x1B#6, 0x1C#6, 0x1D#6, 0x1E#6, 0x1F#6,
          0x27#6, 0x2C#6, 0x2D#6, 0x2F#6, 0x34#6, 0x35#6, 0x36#6, 0x37#6, 0x3C#6, 0x3D#6, 0x3E#6, 0x3F#6]
        ∨ (opOf w = 0x00#6 ∧ (functOf w ∈ [0x01#6, 0x05#6, 0x0A#6, 0x0B#6, 0x0E#6, 0x0F#6, 0x14#6, 0x15#6, 0x16#6,
            0x17#6, 0x1C#6, 0x1D#6, 0x1E#6, 0x1F#6, 0x28#6, 0x29#6] ∨ 0x2C#6 ≤ functOf w))
        ∨ (opOf w = 0x01#6 ∧ rtOf w ∉ [0x00#5, 0x01#5, 0x10#5, 0x11#5])) →
      ∃ t, step s = .next t ∧ EntersPlain u t 10#5)
    ∧ ((opOf w ∈ [0x30#6, 0x38#6]
        ∨ (opOf w = 0x10#6 ∧ bitAt w 25 = false ∧ rsOf w ∉ [0x00#5, 0x04#5])
        ∨ (opOf w = 0x10#6 ∧ bitAt w 25 = true
          ∧ functOf w ∉ [0x01#6, 0x02#6, 0x06#6, 0x08#6, 0x10#6, u.params.tlbclrFunct])) →
      (u.cop0Usable = true → ∃ t, step s = .next t ∧ EntersPlain u t 10#5)
        ∧ (u.cop0Usable = false →
          ∃ t, step s = .next t ∧ EntersPlain u t 11#5 ∧ t.cause.extractLsb' 28 2 = 0#2))

/-! ### Operands -/

/-- $0 reads 0; a register that is not the target of a pending load reads as it stands (R21, R226). -/
def Obligations.OperandReads : Prop :=
  ∀ (s : State) (r : RegIdx),
    s.rs 0#5 = 0#32 ∧ s.rt 0#5 = 0#32
      ∧ ((∀ v, s.ldelay ≠ some (r, v)) → s.rs r = s.reg r ∧ s.rt r = s.reg r)

/-! ### Arithmetic, logic, comparison, shifts (40_alu.md) -/

/-- ADDU, SUBU, ADDIU: encoding, and the result modulo 2^32, never a trap (R176, R178, R180). -/
def Obligations.WrappingArithmetic : Prop :=
  ∀ (s : State) (rd rs rt : RegIdx) (imm : BitVec 16),
    (∃ t, exec (.addu rd rs rt) s = .next t
        ∧ WritesOnly s t rd (BitVec.ofNat 32 ((s.rs rs).toNat + (s.rt rt).toNat)))
      ∧ (∃ t, exec (.subu rd rs rt) s = .next t
        ∧ WritesOnly s t rd (BitVec.ofInt 32 ((s.rs rs).toInt - (s.rt rt).toInt)))
      ∧ (∃ t, exec (.addiu rt rs imm) s = .next t
        ∧ WritesOnly s t rt (BitVec.ofInt 32 ((s.rs rs).toInt + imm.toInt)))
      ∧ ∀ tc : BitVec 6, decode tc (specialWord rs rt rd 0#5 0x21#6) = .ok (.addu rd rs rt)
        ∧ decode tc (specialWord rs rt rd 0#5 0x23#6) = .ok (.subu rd rs rt)
        ∧ decode tc (iWord 0x09#6 rs rt imm) = .ok (.addiu rt rs imm)

/-- ADD, SUB, ADDI when the exact signed result is inside -2^31 .. 2^31-1: it is written (R172, R175, R177, R179). -/
def Obligations.TrappingArithmeticCompletes : Prop :=
  ∀ (s : State) (rd rs rt : RegIdx) (imm : BitVec 16),
    (∀ r : Int, r = (s.rs rs).toInt + (s.rt rt).toInt → -2147483648 ≤ r → r ≤ 2147483647 →
        ∃ t, exec (.add rd rs rt) s = .next t ∧ WritesOnly s t rd (BitVec.ofInt 32 r))
      ∧ (∀ r : Int, r = (s.rs rs).toInt - (s.rt rt).toInt → -2147483648 ≤ r → r ≤ 2147483647 →
        ∃ t, exec (.sub rd rs rt) s = .next t ∧ WritesOnly s t rd (BitVec.ofInt 32 r))
      ∧ (∀ r : Int, r = (s.rs rs).toInt + imm.toInt → -2147483648 ≤ r → r ≤ 2147483647 →
        ∃ t, exec (.addi rt rs imm) s = .next t ∧ WritesOnly s t rt (BitVec.ofInt 32 r))

/-- ADD, SUB, ADDI when the exact signed result is outside: Arithmetic Overflow, code 12, nothing written (R172),
with rd = 0 as with any other. -/
def Obligations.OverflowTraps : Prop :=
  ∀ (s : State) (rd rs rt : RegIdx) (imm : BitVec 16),
    (∀ r : Int, r = (s.rs rs).toInt + (s.rt rt).toInt → (r < -2147483648 ∨ 2147483647 < r) →
        ∃ t, exec (.add rd rs rt) s = .next t ∧ EntersPlain s t 12#5)
      ∧ (∀ r : Int, r = (s.rs rs).toInt - (s.rt rt).toInt → (r < -2147483648 ∨ 2147483647 < r) →
        ∃ t, exec (.sub rd rs rt) s = .next t ∧ EntersPlain s t 12#5)
      ∧ (∀ r : Int, r = (s.rs rs).toInt + imm.toInt → (r < -2147483648 ∨ 2147483647 < r) →
        ∃ t, exec (.addi rt rs imm) s = .next t ∧ EntersPlain s t 12#5)

/-- AND, OR, XOR, NOR, ANDI, ORI, XORI, LUI, encoding and result (R181 to R188): the immediates are
zero-extended. -/
def Obligations.LogicalResults : Prop :=
  ∀ (s : State) (rd rs rt : RegIdx) (imm : BitVec 16),
    (∃ t, exec (.and rd rs rt) s = .next t ∧ WritesOnly s t rd (s.rs rs &&& s.rt rt))
      ∧ (∃ t, exec (.or rd rs rt) s = .next t ∧ WritesOnly s t rd (s.rs rs ||| s.rt rt))
      ∧ (∃ t, exec (.xor rd rs rt) s = .next t ∧ WritesOnly s t rd (s.rs rs ^^^ s.rt rt))
      ∧ (∃ t, exec (.nor rd rs rt) s = .next t ∧ WritesOnly s t rd (~~~(s.rs rs ||| s.rt rt)))
      ∧ (∃ t, exec (.andi rt rs imm) s = .next t ∧ WritesOnly s t rt (s.rs rs &&& BitVec.ofNat 32 imm.toNat))
      ∧ (∃ t, exec (.ori rt rs imm) s = .next t ∧ WritesOnly s t rt (s.rs rs ||| BitVec.ofNat 32 imm.toNat))
      ∧ (∃ t, exec (.xori rt rs imm) s = .next t ∧ WritesOnly s t rt (s.rs rs ^^^ BitVec.ofNat 32 imm.toNat))
      ∧ (∃ t, exec (.lui rt imm) s = .next t ∧ WritesOnly s t rt (BitVec.ofNat 32 (imm.toNat * 65536)))
      ∧ ∀ tc : BitVec 6, decode tc (specialWord rs rt rd 0#5 0x24#6) = .ok (.and rd rs rt)
        ∧ decode tc (specialWord rs rt rd 0#5 0x25#6) = .ok (.or rd rs rt)
        ∧ decode tc (specialWord rs rt rd 0#5 0x26#6) = .ok (.xor rd rs rt)
        ∧ decode tc (specialWord rs rt rd 0#5 0x27#6) = .ok (.nor rd rs rt)
        ∧ decode tc (iWord 0x0C#6 rs rt imm) = .ok (.andi rt rs imm)
        ∧ decode tc (iWord 0x0D#6 rs rt imm) = .ok (.ori rt rs imm)
        ∧ decode tc (iWord 0x0E#6 rs rt imm) = .ok (.xori rt rs imm)
        ∧ decode tc (iWord 0x0F#6 0#5 rt imm) = .ok (.lui rt imm)

/-- SLT, SLTU, SLTI, SLTIU, encoding and result (R189 to R192): 1 or 0, the comparison exact, SLTIU's immediate
sign-extended first. -/
def Obligations.SetResults : Prop :=
  ∀ (s : State) (rd rs rt : RegIdx) (imm : BitVec 16),
    (∃ t, exec (.slt rd rs rt) s = .next t
        ∧ WritesOnly s t rd (if (s.rs rs).toInt < (s.rt rt).toInt then 1#32 else 0#32))
      ∧ (∃ t, exec (.sltu rd rs rt) s = .next t
        ∧ WritesOnly s t rd (if (s.rs rs).toNat < (s.rt rt).toNat then 1#32 else 0#32))
      ∧ (∃ t, exec (.slti rt rs imm) s = .next t
        ∧ WritesOnly s t rt (if (s.rs rs).toInt < imm.toInt then 1#32 else 0#32))
      ∧ (∃ t, exec (.sltiu rt rs imm) s = .next t
        ∧ WritesOnly s t rt (if (s.rs rs).toNat < (imm.signExtend 32).toNat then 1#32 else 0#32))
      ∧ ∀ tc : BitVec 6, decode tc (specialWord rs rt rd 0#5 0x2A#6) = .ok (.slt rd rs rt)
        ∧ decode tc (specialWord rs rt rd 0#5 0x2B#6) = .ok (.sltu rd rs rt)
        ∧ decode tc (iWord 0x0A#6 rs rt imm) = .ok (.slti rt rs imm)
        ∧ decode tc (iWord 0x0B#6 rs rt imm) = .ok (.sltiu rt rs imm)

/-- The six shifts, encoding and result (R193 to R198), as exact arithmetic: left multiplies, SRL divides the unsigned value, SRA the
signed one rounding down; a variable shift uses its amount modulo 32. -/
def Obligations.ShiftResults : Prop :=
  ∀ (s : State) (rd rs rt : RegIdx) (sh : BitVec 5),
    (∃ t, exec (.sll rd rt sh) s = .next t
        ∧ WritesOnly s t rd (BitVec.ofNat 32 ((s.rt rt).toNat * 2 ^ sh.toNat)))
      ∧ (∃ t, exec (.srl rd rt sh) s = .next t
        ∧ WritesOnly s t rd (BitVec.ofNat 32 ((s.rt rt).toNat / 2 ^ sh.toNat)))
      ∧ (∃ t, exec (.sra rd rt sh) s = .next t
        ∧ WritesOnly s t rd (BitVec.ofInt 32 ((s.rt rt).toInt / 2 ^ sh.toNat)))
      ∧ (∃ t, exec (.sllv rd rt rs) s = .next t
        ∧ WritesOnly s t rd (BitVec.ofNat 32 ((s.rt rt).toNat * 2 ^ ((s.rs rs).toNat % 32))))
      ∧ (∃ t, exec (.srlv rd rt rs) s = .next t
        ∧ WritesOnly s t rd (BitVec.ofNat 32 ((s.rt rt).toNat / 2 ^ ((s.rs rs).toNat % 32))))
      ∧ (∃ t, exec (.srav rd rt rs) s = .next t
        ∧ WritesOnly s t rd (BitVec.ofInt 32 ((s.rt rt).toInt / 2 ^ ((s.rs rs).toNat % 32))))
      ∧ ∀ tc : BitVec 6, decode tc (specialWord 0#5 rt rd sh 0x00#6) = .ok (.sll rd rt sh)
        ∧ decode tc (specialWord 0#5 rt rd sh 0x02#6) = .ok (.srl rd rt sh)
        ∧ decode tc (specialWord 0#5 rt rd sh 0x03#6) = .ok (.sra rd rt sh)
        ∧ decode tc (specialWord rs rt rd 0#5 0x04#6) = .ok (.sllv rd rt rs)
        ∧ decode tc (specialWord rs rt rd 0#5 0x06#6) = .ok (.srlv rd rt rs)
        ∧ decode tc (specialWord rs rt rd 0#5 0x07#6) = .ok (.srav rd rt rs)

/-! ### Multiply, divide, HI and LO (41_muldiv.md) -/

/-- MULT and MULTU: encoding, and HI and LO together the exact 64-bit product (R212, R213). -/
def Obligations.ProductsAreExact : Prop :=
  ∀ (s : State) (rs rt : RegIdx),
    (∃ t, exec (.mult rs rt) s = .next t
        ∧ (t.hi ++ t.lo : BitVec 64).toInt = (s.rs rs).toInt * (s.rt rt).toInt ∧ HiLoOnly s t)
      ∧ (∃ t, exec (.multu rs rt) s = .next t
        ∧ t.hi.toNat * 2 ^ 32 + t.lo.toNat = (s.rs rs).toNat * (s.rt rt).toNat ∧ HiLoOnly s t)
      ∧ ∀ tc : BitVec 6, decode tc (specialWord rs rt 0#5 0#5 0x18#6) = .ok (.mult rs rt)
        ∧ decode tc (specialWord rs rt 0#5 0#5 0x19#6) = .ok (.multu rs rt)

/-- DIV and DIVU where the spec gives a result: LO the quotient truncated toward zero, HI the remainder (R214,
R215). -/
def Obligations.QuotientAndRemainder : Prop :=
  ∀ (s : State) (rs rt : RegIdx), s.rt rt ≠ 0#32 →
    (¬(s.rs rs = 0x80000000#32 ∧ s.rt rt = 0xFFFFFFFF#32) →
        ∃ t, exec (.div rs rt) s = .next t ∧ t.lo.toInt = (s.rs rs).toInt.tdiv (s.rt rt).toInt
          ∧ t.hi.toInt = (s.rs rs).toInt - t.lo.toInt * (s.rt rt).toInt ∧ HiLoOnly s t)
      ∧ (∃ t, exec (.divu rs rt) s = .next t ∧ t.lo.toNat = (s.rs rs).toNat / (s.rt rt).toNat
          ∧ t.hi.toNat = (s.rs rs).toNat % (s.rt rt).toNat ∧ HiLoOnly s t)

/-- DIV and DIVU where the spec gives none (R214, R215): no exception, nothing but HI and LO changes. -/
def Obligations.DivisionCornersComplete : Prop :=
  ∀ (s : State) (rs rt : RegIdx),
    ((s.rt rt = 0#32 ∨ (s.rs rs = 0x80000000#32 ∧ s.rt rt = 0xFFFFFFFF#32)) →
        ∃ t, exec (.div rs rt) s = .next t ∧ HiLoOnly s t)
      ∧ (s.rt rt = 0#32 → ∃ t, exec (.divu rs rt) s = .next t ∧ HiLoOnly s t)

/-- MFHI, MTHI, MFLO, MTLO, encoding and effect (R216 to R219): no delay, the other of the pair unchanged. -/
def Obligations.HiLoMoves : Prop :=
  ∀ (s : State) (r : RegIdx),
    (∃ t, exec (.mfhi r) s = .next t ∧ WritesOnly s t r s.hi)
      ∧ (∃ t, exec (.mflo r) s = .next t ∧ WritesOnly s t r s.lo)
      ∧ (∃ t, exec (.mthi r) s = .next t ∧ t.hi = s.rs r ∧ t.lo = s.lo ∧ HiLoOnly s t)
      ∧ (∃ t, exec (.mtlo r) s = .next t ∧ t.lo = s.rs r ∧ t.hi = s.hi ∧ HiLoOnly s t)
      ∧ ∀ tc : BitVec 6, decode tc (specialWord 0#5 0#5 r 0#5 0x10#6) = .ok (.mfhi r)
        ∧ decode tc (specialWord r 0#5 0#5 0#5 0x11#6) = .ok (.mthi r)
        ∧ decode tc (specialWord 0#5 0#5 r 0#5 0x12#6) = .ok (.mflo r)
        ∧ decode tc (specialWord r 0#5 0#5 0#5 0x13#6) = .ok (.mtlo r)

/-! ### Loads and stores (42_loadstore.md, 20_memory.md) -/

/-- LB, LBU, LH, LHU, LW from RAM or ROM: the bytes at the address, in the machine's byte order, pending for the
register (R229 to R233, R87, R226). LW in the bus and device area: the word the tables of the area give for its
address, bus registers, bit maps and the four words of every device register, class by class (R380, R387, R388, R395,
R401, R406, R416, R421, R425); that a word the host put into DATA1 shows there is the model's choice (log entry 12). The
other six loads are refused there:
LB, LBU, LH and LHU by R92, and all six, LWL and LWR at every byte position, by item 29 of
spec/93_implementation_defined.md, which names them. That an access which traps at an earlier step of R96 takes its
exception and is not refused is the model's reading of that order (DEDUCED, log entry 27). -/
def Obligations.LoadsFromMemory : Prop :=
  ∀ (s : State) (rt rs : RegIdx) (imm : BitVec 16) (pa : Word),
    s.resolve .load (s.rs rs + imm.signExtend 32) = .ok pa →
    ∀ b0 b1 b2 b3 : Byte, b0 = s.mem.read pa.toNat → b1 = s.mem.read (pa.toNat + 1) →
      b2 = s.mem.read (pa.toNat + 2) → b3 = s.mem.read (pa.toNat + 3) →
    (∀ region ∈ [Region.ram, Region.execRom, Region.bootRom],
      (regionOf s.params pa 1 = region →
          (∃ t, exec (.lb rt rs imm) s = .next t ∧ LoadsOnly s t rt (b0.signExtend 32))
            ∧ (∃ t, exec (.lbu rt rs imm) s = .next t ∧ LoadsOnly s t rt (b0.setWidth 32)))
        ∧ (regionOf s.params pa 2 = region → (s.rs rs + imm.signExtend 32).toNat % 2 = 0 →
          ∀ h : BitVec 16, h = (if s.params.bigEndian then b0 ++ b1 else b1 ++ b0) →
            (∃ t, exec (.lh rt rs imm) s = .next t ∧ LoadsOnly s t rt (h.signExtend 32))
              ∧ (∃ t, exec (.lhu rt rs imm) s = .next t ∧ LoadsOnly s t rt (h.setWidth 32)))
        ∧ (regionOf s.params pa 4 = region → (s.rs rs + imm.signExtend 32).toNat % 4 = 0 →
          ∃ t, exec (.lw rt rs imm) s = .next t
            ∧ LoadsOnly s t rt (if s.params.bigEndian then b0 ++ b1 ++ b2 ++ b3 else b3 ++ b2 ++ b1 ++ b0)))
      ∧ (regionOf s.params pa 4 = .device → (s.rs rs + imm.signExtend 32).toNat % 4 = 0 →
        (∀ p ∈ busWords s, pa.toNat = p.1 → ∃ t, exec (.lw rt rs imm) s = .next t ∧ LoadsOnly s t rt p.2)
          ∧ (∀ line, 3 ≤ line → line ≤ 7 → pa.toNat = 0x1000003C + 4 * (line - 3) →
            ∃ t v, exec (.lw rt rs imm) s = .next t ∧ LoadsOnly s t rt v
              ∧ ∀ i, i < 32 → bitAt v i = if h : i < 8 then s.interruptPending line ⟨i, h⟩ else false)
          ∧ (∀ (line : Nat) (d : DevNo) (f : Nat), 3 ≤ line → line ≤ 7 → f < 4 → pa.toNat = deviceAddr line d f →
            ∃ t, exec (.lw rt rs imm) s = .next t ∧ LoadsOnly s t rt (s.readDevice line d f)
              ∧ s.deviceShows line d f (s.readDevice line d f)))
      ∧ (s.params.wf = true → regionOf s.params pa 1 = .device →
        ∀ i ∈ [Instr.lb rt rs imm, .lbu rt rs imm, .lh rt rs imm, .lhu rt rs imm, .lwl rt rs imm, .lwr rt rs imm],
          mayAccess i (s.rs rs + imm.signExtend 32) = true → exec i s = .refused .subWordDeviceAccess)

/-- The value of a pending load is in its register after the next instruction, whatever that instruction is and
whether it completes or traps, unless it is one that writes or loads the same register; after an exception entry it
always is, an interrupt's among them. No load is pending for the register then (R226). -/
def Obligations.LoadedValueArrives : Prop :=
  ∀ (s t : State) (rt : RegIdx) (v : Word), rt ≠ 0#5 → s.ldelay = some (rt, v) →
    (∀ i : Instr, exec i s = .next t → written i ≠ some rt → t.reg rt = v ∧ ∀ w, t.ldelay ≠ some (rt, w))
      ∧ (∀ e : Exc, raise e s = .next t → t.reg rt = v ∧ t.ldelay = none)
      ∧ (∀ r : State, AfterAgents r s → s.params.wf = true → s.ended = none → s.interruptTaken = true →
        step r = .next t → t.reg rt = v ∧ t.ldelay = none)

/-- LWL and LWR from RAM or ROM, byte by byte (R236, R237, R241): with `k` the significance position of the
addressed byte, LWL puts bytes k..0 of the memory word at the top of the register, LWR bytes 3..k at the bottom;
the register's other bytes are kept, a pending load into it forwarded. -/
def Obligations.UnalignedLoads : Prop :=
  ∀ (s : State) (rt rs : RegIdx) (imm : BitVec 16) (va pa wa word : Word) (k : Nat),
    va = s.rs rs + imm.signExtend 32 → s.resolve .load va = .ok pa → wa = BitVec.ofNat 32 (pa.toNat / 4 * 4) →
    regionOf s.params wa 4 ∈ [Region.ram, Region.execRom, Region.bootRom] →
    word = s.mem.readWord s.params.bigEndian wa.toNat →
    k = (if s.params.bigEndian then 3 - va.toNat % 4 else va.toNat % 4) →
    (∃ t v, exec (.lwl rt rs imm) s = .next t ∧ LoadsOnly s t rt v
        ∧ ∀ j, j < 4 → v.extractLsb' (8 * j) 8 =
            if 3 - k ≤ j then word.extractLsb' (8 * (j - (3 - k))) 8 else (s.settled rt).extractLsb' (8 * j) 8)
      ∧ (∃ t v, exec (.lwr rt rs imm) s = .next t ∧ LoadsOnly s t rt v
        ∧ ∀ j, j < 4 → v.extractLsb' (8 * j) 8 =
            if j ≤ 3 - k then word.extractLsb' (8 * (j + k)) 8 else (s.settled rt).extractLsb' (8 * j) 8)

/-- SB, SH, SW into RAM: the stored bytes in the machine's byte order, every other byte of memory as before (R234,
R235, R240, R87). -/
def Obligations.StoresToRam : Prop :=
  ∀ (s : State) (rt rs : RegIdx) (imm : BitVec 16) (pa : Word),
    s.resolve .store (s.rs rs + imm.signExtend 32) = .ok pa →
    (regionOf s.params pa 1 = .ram →
        ∃ t, exec (.sb rt rs imm) s = .next t ∧ MemoryOnly s t ∧ ∀ a : Nat, t.mem.read a =
          if a = pa.toNat then (s.rt rt).extractLsb' 0 8 else s.mem.read a)
      ∧ (regionOf s.params pa 2 = .ram → (s.rs rs + imm.signExtend 32).toNat % 2 = 0 →
        ∃ t, exec (.sh rt rs imm) s = .next t ∧ MemoryOnly s t ∧ ∀ a : Nat, t.mem.read a =
          if pa.toNat ≤ a ∧ a < pa.toNat + 2 then
            (if s.params.bigEndian then (s.rt rt).extractLsb' (8 - 8 * (a - pa.toNat)) 8
              else (s.rt rt).extractLsb' (8 * (a - pa.toNat)) 8)
          else s.mem.read a)
      ∧ (regionOf s.params pa 4 = .ram → (s.rs rs + imm.signExtend 32).toNat % 4 = 0 →
        ∃ t, exec (.sw rt rs imm) s = .next t ∧ MemoryOnly s t ∧ ∀ a : Nat, t.mem.read a =
          if pa.toNat ≤ a ∧ a < pa.toNat + 4 then
            (if s.params.bigEndian then (s.rt rt).extractLsb' (24 - 8 * (a - pa.toNat)) 8
              else (s.rt rt).extractLsb' (8 * (a - pa.toNat)) 8)
          else s.mem.read a)

/-- SWL and SWR into RAM, byte by byte (R238, R239, R241): with `p` a byte's significance position in the aligned
word and `k` that of the addressed one, SWL replaces the bytes p ≤ k by the register's top bytes, SWR the bytes
p ≥ k by its bottom bytes; every other byte of memory is as before. SWR on a big-endian machine follows R239's formula,
where the word printed in table B.4 of spec/95_test_vectors.md differs: the model's reading (DEDUCED, log entry 3). -/
def Obligations.UnalignedStores : Prop :=
  ∀ (s : State) (rt rs : RegIdx) (imm : BitVec 16) (va pa : Word) (wa k : Nat),
    va = s.rs rs + imm.signExtend 32 → s.resolve .store va = .ok pa → wa = pa.toNat / 4 * 4 →
    regionOf s.params (BitVec.ofNat 32 wa) 4 = .ram →
    k = (if s.params.bigEndian then 3 - va.toNat % 4 else va.toNat % 4) →
    ∀ position : Nat → Nat, (∀ a, position a = if s.params.bigEndian then 3 - (a - wa) else a - wa) →
    (∃ t, exec (.swl rt rs imm) s = .next t ∧ MemoryOnly s t ∧ ∀ a : Nat, t.mem.read a =
        if wa ≤ a ∧ a < wa + 4 ∧ position a ≤ k then (s.rt rt).extractLsb' (8 * (position a + (3 - k))) 8
        else s.mem.read a)
      ∧ (∃ t, exec (.swr rt rs imm) s = .next t ∧ MemoryOnly s t ∧ ∀ a : Nat, t.mem.read a =
        if wa ≤ a ∧ a < wa + 4 ∧ k ≤ position a then (s.rt rt).extractLsb' (8 * (position a - k)) 8
        else s.mem.read a)

/-- A halfword or word load or store at an address that is not a multiple of its size: Address Error, AdEL 4 or
AdES 5, BadVAddr the address, nothing accessed (R88); an instruction fetch at a misaligned pc: AdEL (R30, R342). -/
def Obligations.MisalignedAccessesTrap : Prop :=
  ∀ (s : State) (rt rs : RegIdx) (imm : BitVec 16) (va : Word), va = s.rs rs + imm.signExtend 32 →
    (∀ i ∈ loadsOf rt rs imm, mayAccess i va = false → ∃ t, exec i s = .next t ∧ EntersAddress s t 4#5 va)
      ∧ (∀ i ∈ storesOf rt rs imm, mayAccess i va = false → ∃ t, exec i s = .next t ∧ EntersAddress s t 5#5 va)
      ∧ (∀ r : State, ReadyToFetch r s → s.pc.toNat % 4 ≠ 0 → ∃ t, step r = .next t ∧ EntersAddress s t 4#5 s.pc)

/-- A user-mode load, store or instruction fetch below 0x20000000 with VM off, below 0x80000000 with VM on: Address
Error, BadVAddr the address (R89, R97). -/
def Obligations.UserModeRangeTraps : Prop :=
  ∀ (s : State) (va : Word), bitAt s.status 1 = true →
    ((bitAt s.status 24 = false ∧ va.toNat < 0x20000000) ∨ (bitAt s.status 24 = true ∧ va.toNat < 0x80000000)) →
    (∀ (rt rs : RegIdx) (imm : BitVec 16), va = s.rs rs + imm.signExtend 32 →
        (∀ i ∈ loadsOf rt rs imm, ∃ t, exec i s = .next t ∧ EntersAddress s t 4#5 va)
          ∧ (∀ i ∈ storesOf rt rs imm, ∃ t, exec i s = .next t ∧ EntersAddress s t 5#5 va))
      ∧ (∀ r : State, ReadyToFetch r s → s.pc = va → ∃ t, step r = .next t ∧ EntersAddress s t 4#5 va)

/-- An access, in either mode, translated or not, that comes to a physical address where nothing is installed: a load or
store takes Bus Error DBE 7, an instruction fetch IBE 6, no address recorded, nothing stored; so does a store that comes
to ROM (R91, R93, R102, R106). That user-mode with VM off may access from 0x20000000 up is the model's reading of the
spec (log entry 36). -/
def Obligations.BusErrorsTrap : Prop :=
  ∀ (s : State) (va pa : Word), s.params.wf = true →
    (s.comesTo false va pa → notInstalled s.params pa →
        (∀ (rt rs : RegIdx) (imm : BitVec 16), va = s.rs rs + imm.signExtend 32 →
            ∀ i ∈ loadsOf rt rs imm, mayAccess i va = true → ∃ t, exec i s = .next t ∧ EntersPlain s t 7#5)
          ∧ (∀ r : State, ReadyToFetch r s → s.pc = va → va.toNat % 4 = 0 →
            ∃ t, step r = .next t ∧ EntersPlain s t 6#5))
      ∧ (s.comesTo true va pa →
        (notInstalled s.params pa ∨ pa.toNat < s.params.romSize
          ∨ (0x1FC00000 ≤ pa.toNat ∧ pa.toNat < 0x1FC00000 + s.params.bootSize)) →
        ∀ (rt rs : RegIdx) (imm : BitVec 16), va = s.rs rs + imm.signExtend 32 →
          ∀ i ∈ storesOf rt rs imm, mayAccess i va = true → ∃ t, exec i s = .next t ∧ EntersPlain s t 7#5)

/-- The TLB search of translation: the highest-numbered slot whose page is the address's and that is global or of
the current ASID; no slot exactly when none matches (R104). -/
def Obligations.TranslationUsesHighestMatch : Prop :=
  ∀ (s : State) (va : Word) (matching : Nat → Prop), s.params.wf = true →
    (∀ k, matching k ↔ k < s.params.tlbSize ∧ (s.tlbAt k).hi.extractLsb' 12 20 = va.extractLsb' 12 20
      ∧ (bitAt (s.tlbAt k).lo 8 = true ∨ (s.tlbAt k).hi.extractLsb' 6 6 = s.entryHi.extractLsb' 6 6)) →
    (∀ k, s.tlbLookup (va.extractLsb' 12 20) = some k ↔ matching k ∧ ∀ j, matching j → j ≤ k)
      ∧ (s.tlbLookup (va.extractLsb' 12 20) = none ↔ ∀ k, ¬matching k)

/-- What translation answers for a load and for a store, in every case (R104, R105, R107): no match, an invalid
entry, a store to an entry that is not writable, or the entry's frame with the address's offset. -/
def Obligations.TranslationOutcomes : Prop :=
  ∀ (s : State) (va : Word),
    (s.tlbLookup (va.extractLsb' 12 20) = none →
        s.translate .load va = .raise (.refillL va) ∧ s.translate .store va = .raise (.refillS va))
      ∧ ∀ k, s.tlbLookup (va.extractLsb' 12 20) = some k →
        (bitAt (s.tlbAt k).lo 9 = false →
            s.translate .load va = .raise (.tlbl va) ∧ s.translate .store va = .raise (.tlbs va))
          ∧ (bitAt (s.tlbAt k).lo 9 = true →
            s.translate .load va = .ok ((s.tlbAt k).lo.extractLsb' 12 20 ++ va.extractLsb' 0 12)
              ∧ (bitAt (s.tlbAt k).lo 10 = false → s.translate .store va = .raise (.mod va))
              ∧ (bitAt (s.tlbAt k).lo 10 = true →
                s.translate .store va = .ok ((s.tlbAt k).lo.extractLsb' 12 20 ++ va.extractLsb' 0 12)))

/-- The exceptions of translation on a load, a store or an instruction fetch, by the code, BadVAddr, EntryHi's page
and the vector: a TLB-Refill event has its own (R105, R353, R356, R360). -/
def Obligations.TranslationExceptionsEnter : Prop :=
  ∀ (s : State) (va : Word), bitAt s.status 24 = true → 0x20000000 ≤ va.toNat →
    (bitAt s.status 1 = true → 0x80000000 ≤ va.toNat) →
    (∀ (rt rs : RegIdx) (imm : BitVec 16), va = s.rs rs + imm.signExtend 32 →
        (s.tlbLookup (va.extractLsb' 12 20) = none →
            (∀ i ∈ loadsOf rt rs imm, mayAccess i va = true →
                ∃ t, exec i s = .next t ∧ EntersTlb s t 2#5 va (refillVector s))
              ∧ ∀ i ∈ storesOf rt rs imm, mayAccess i va = true →
                ∃ t, exec i s = .next t ∧ EntersTlb s t 3#5 va (refillVector s))
          ∧ ∀ k, s.tlbLookup (va.extractLsb' 12 20) = some k →
            (bitAt (s.tlbAt k).lo 9 = false →
                (∀ i ∈ loadsOf rt rs imm, mayAccess i va = true →
                    ∃ t, exec i s = .next t ∧ EntersTlb s t 2#5 va (generalVector s))
                  ∧ ∀ i ∈ storesOf rt rs imm, mayAccess i va = true →
                    ∃ t, exec i s = .next t ∧ EntersTlb s t 3#5 va (generalVector s))
              ∧ (bitAt (s.tlbAt k).lo 9 = true → bitAt (s.tlbAt k).lo 10 = false →
                ∀ i ∈ storesOf rt rs imm, mayAccess i va = true →
                  ∃ t, exec i s = .next t ∧ EntersTlb s t 1#5 va (generalVector s)))
      ∧ (∀ r : State, ReadyToFetch r s → s.pc = va → va.toNat % 4 = 0 →
        (s.tlbLookup (va.extractLsb' 12 20) = none →
            ∃ t, step r = .next t ∧ EntersTlb s t 2#5 va (refillVector s))
          ∧ ∀ k, s.tlbLookup (va.extractLsb' 12 20) = some k → bitAt (s.tlbAt k).lo 9 = false →
            ∃ t, step r = .next t ∧ EntersTlb s t 2#5 va (generalVector s))

/-! ### Jumps and branches (43_control.md) -/

/-- J, JAL, JR, JALR outside a delay slot: the delay slot next, then the target; the link is the address after the
slot, the register read before the link is written (R251, R255 to R259). JALR with rd = rs, which R259 calls not
allowed and lets a model refuse, runs by the model's choice (log entry 23). -/
def Obligations.JumpResults : Prop :=
  ∀ (s : State) (target : BitVec 26) (rd rs : RegIdx) (dest : Word), s.inslot = false →
    dest = BitVec.ofNat 32 ((s.pc + 4#32).toNat / 2 ^ 28 * 2 ^ 28 + target.toNat * 4) →
    (∃ t, exec (.j target) s = .next t ∧ SameRegs s t ∧ Branches s t dest)
      ∧ (∃ t, exec (.jal target) s = .next t ∧ WroteReg s t 31#5 (s.pc + 8#32) ∧ Branches s t dest)
      ∧ (∃ t, exec (.jr rs) s = .next t ∧ SameRegs s t ∧ Branches s t (s.rs rs))
      ∧ (∃ t, exec (.jalr rd rs) s = .next t ∧ WroteReg s t rd (s.pc + 8#32) ∧ Branches s t (s.rs rs))

/-- The eight branches outside a delay slot: taken or not, the instruction after is a delay slot; taken, the
target follows it, else the next address (R251, R255, R260 to R267). BLTZAL and BGEZAL with rs = 31, which R266
and R267 call not allowed, run by the model's choice (log entry 23). -/
def Obligations.BranchResults : Prop :=
  ∀ (s : State) (rs rt : RegIdx) (imm : BitVec 16) (dest : Bool → Word), s.inslot = false →
    (∀ taken, dest taken = if taken then s.pc + 4#32 + BitVec.ofInt 32 (imm.toInt * 4) else nextButOne s) →
    (∃ t, exec (.beq rs rt imm) s = .next t ∧ SameRegs s t ∧ Branches s t (dest (s.rs rs = s.rt rt)))
      ∧ (∃ t, exec (.bne rs rt imm) s = .next t ∧ SameRegs s t ∧ Branches s t (dest (s.rs rs ≠ s.rt rt)))
      ∧ (∃ t, exec (.blez rs imm) s = .next t ∧ SameRegs s t ∧ Branches s t (dest ((s.rs rs).toInt ≤ 0)))
      ∧ (∃ t, exec (.bgtz rs imm) s = .next t ∧ SameRegs s t ∧ Branches s t (dest (0 < (s.rs rs).toInt)))
      ∧ (∃ t, exec (.bltz rs imm) s = .next t ∧ SameRegs s t ∧ Branches s t (dest ((s.rs rs).toInt < 0)))
      ∧ (∃ t, exec (.bgez rs imm) s = .next t ∧ SameRegs s t ∧ Branches s t (dest (0 ≤ (s.rs rs).toInt)))
      ∧ (∃ t, exec (.bltzal rs imm) s = .next t ∧ WroteReg s t 31#5 (s.pc + 8#32)
        ∧ Branches s t (dest ((s.rs rs).toInt < 0)))
      ∧ (∃ t, exec (.bgezal rs imm) s = .next t ∧ WroteReg s t 31#5 (s.pc + 8#32)
        ∧ Branches s t (dest (0 ≤ (s.rs rs).toInt)))

/-- A jump or branch in a delay slot has no defined behaviour and is refused by name (R253). -/
def Obligations.BranchInDelaySlotRefused : Prop :=
  ∀ (s : State) (target : BitVec 26) (rd rs rt : RegIdx) (imm : BitVec 16), s.inslot = true →
    ∀ i ∈ [Instr.j target, .jal target, .jr rs, .jalr rd rs, .beq rs rt imm, .bne rs rt imm, .blez rs imm,
      .bgtz rs imm, .bltz rs imm, .bgez rs imm, .bltzal rs imm, .bgezal rs imm],
      exec i s = .refused .branchInDelaySlot

/-! ### Exceptions (60_exceptions.md) -/

/-- The push of the KU/IE and VM stacks at every exception entry, whatever the exception; a pop after it restores
the current and previous bits, and leaves in the old bits what the previous ones held (R352). -/
def Obligations.EntryPushesStacks : Prop :=
  ∀ (s : State) (e : Exc),
    Pushed s.status (s.takeException e).status
      ∧ ∀ i, i < 32 → bitAt ((s.takeException e).returnFromException).status i =
        if i = 4 ∨ i = 5 then bitAt s.status (i - 2) else if i = 26 then bitAt s.status 25 else bitAt s.status i

/-- The four vectors, by Status.BEV and the event; the address after the vector, no delay slot, BEV kept, and the
handler's fetch physical whatever VMc was (R354). -/
def Obligations.EntryVectors : Prop :=
  ∀ (s : State) (e : Exc),
    (s.takeException e).pc =
        (if bitAt s.status 22 then (if e.isRefill then 0x1FC00100#32 else 0x1FC00180#32)
          else (if e.isRefill then 0x00000000#32 else 0x00000080#32))
      ∧ (s.takeException e).npc = (s.takeException e).pc + 4#32 ∧ (s.takeException e).inslot = false
      ∧ bitAt (s.takeException e).status 22 = bitAt s.status 22
      ∧ (s.takeException e).resolve .fetch (s.takeException e).pc = .ok (s.takeException e).pc

/-- SYSCALL and BREAK, with any code, in either mode: exceptions 8 and 9, EPC the instruction itself or the branch
before it (R273, R274, R351). -/
def Obligations.SyscallAndBreakEnter : Prop :=
  ∀ (s : State) (code : BitVec 20),
    (∃ t, exec (.syscall code) s = .next t ∧ EntersPlain s t 8#5)
      ∧ (∃ t, exec (.brk code) s = .next t ∧ EntersPlain s t 9#5)

/-- Every word of coprocessors 1, 2 and 3: Coprocessor Unusable, CE the coprocessor, in both modes (R293). -/
def Obligations.OtherCoprocessorsTrap : Prop :=
  ∀ (s : State) (a : BitVec 26),
    (∀ i ∈ [Instr.cop1 a, .lwc1 a, .swc1 a],
        ∃ t, exec i s = .next t ∧ EntersPlain s t 11#5 ∧ t.cause.extractLsb' 28 2 = 1#2)
      ∧ (∀ i ∈ [Instr.cop2 a, .lwc2 a, .swc2 a],
        ∃ t, exec i s = .next t ∧ EntersPlain s t 11#5 ∧ t.cause.extractLsb' 28 2 = 2#2)
      ∧ (∀ i ∈ [Instr.cop3 a, .lwc3 a, .swc3 a],
        ∃ t, exec i s = .next t ∧ EntersPlain s t 11#5 ∧ t.cause.extractLsb' 28 2 = 3#2)

/-- The coprocessor 0 instructions in user-mode with CU[0] = 0: Coprocessor Unusable, CE = 0, whatever their
operands (R272). -/
def Obligations.PrivilegedInstructionsTrap : Prop :=
  ∀ (s : State) (rt rd : RegIdx), bitAt s.status 1 = true → bitAt s.status 28 = false →
    ∀ i ∈ [Instr.mfc0 rt rd, .mtc0 rt rd, .tlbwi, .tlbwr, .tlbr, .tlbclr, .tlbp, .rfe],
      ∃ t, exec i s = .next t ∧ EntersPlain s t 11#5 ∧ t.cause.extractLsb' 28 2 = 0#2

/-- The interrupt test: an enabled line is pending; the interrupt is taken before the fetch, code 0, with EPC the
instruction that would have executed (R362). -/
def Obligations.InterruptTest : Prop :=
  ∀ (s u : State), AfterAgents s u → u.params.wf = true → u.ended = none →
    (u.interruptTaken = true ↔
        bitAt u.status 0 = true ∧ ∃ i, i < 8 ∧ bitAt u.causeRead (8 + i) = true ∧ bitAt u.status (8 + i) = true)
      ∧ (u.interruptTaken = true → ∃ t, step s = .next t ∧ EntersPlain u t 0#5)

/-- Cause as it reads, bit by bit: ExcCode, CE, BD and lines 0 and 1 are stored, line 2 is the Interval Timer's
pending bit, lines 3 to 7 are on exactly when some device on them is pending, the unnamed bits are 0 (R44, R46, R388,
R434). -/
def Obligations.CauseReadsLive : Prop :=
  ∀ s : State,
    (∀ i ∈ [2, 3, 4, 5, 6, 8, 9, 28, 29, 31], bitAt s.causeRead i = bitAt s.cause i)
      ∧ (∀ i ∈ [0, 1, 7, 16, 17, 18, 19, 20, 21, 22, 23, 24, 25, 26, 27, 30], bitAt s.causeRead i = false)
      ∧ bitAt s.causeRead 10 = s.timerPending
      ∧ (bitAt s.causeRead 11 = true ↔ ∃ d : DevNo, s.disks[d].reg.pending = true)
      ∧ (bitAt s.causeRead 12 = true ↔ ∃ d : DevNo, s.tapes[d].reg.pending = true)
      ∧ bitAt s.causeRead 13 = false
      ∧ (bitAt s.causeRead 14 = true ↔ ∃ d : DevNo, s.printers[d].reg.pending = true)
      ∧ (bitAt s.causeRead 15 = true ↔
        ∃ d : DevNo, s.terminals[d].recv.pending = true ∨ s.terminals[d].transm.pending = true)

/-! ### System instructions (44_system.md) -/

/-- RFE: its word, its usability test, and the pop, with no other bit of Status and no other register changed
(R290). -/
def Obligations.RfePopsStacks : Prop :=
  (∀ tc, decode tc 0x42000010#32 = .ok .rfe)
    ∧ ∀ s : State,
      (s.cop0Usable = true → ∃ t, exec .rfe s = .next t ∧ Popped s.status t.status ∧ KeepsRegs s t ∧ SameMemory s t
          ∧ SameOutside s t ∧ t.index = s.index ∧ t.random = s.random ∧ t.entryLo = s.entryLo
          ∧ t.badVAddr = s.badVAddr ∧ t.entryHi = s.entryHi ∧ t.cause = s.cause ∧ t.epc = s.epc ∧ t.tlb = s.tlb)
        ∧ (s.cop0Usable = false →
          ∃ t, exec .rfe s = .next t ∧ EntersPlain s t 11#5 ∧ t.cause.extractLsb' 28 2 = 0#2)

/-- MFC0 of every implemented register: its value is pending for the general register as a load's is, nothing else
changes; Cause shows the live lines, Random and Index their named fields; a number without a register is refused
(R275). -/
def Obligations.Mfc0Reads : Prop :=
  ∀ (s : State) (rt rd : RegIdx) (v : Word), s.cop0Usable = true →
    ((rd, v) ∈ [(0#5, s.index &&& 0x80003F00#32), (1#5, s.random &&& 0x00003F00#32), (2#5, s.entryLo),
        (8#5, s.badVAddr), (10#5, s.entryHi), (12#5, s.status), (13#5, s.causeRead), (14#5, s.epc),
        (15#5, s.params.prid)] →
      ∃ t, exec (.mfc0 rt rd) s = .next t ∧ LoadsOnly s t rt v)
    ∧ (rd ∉ [0#5, 1#5, 2#5, 8#5, 10#5, 12#5, 13#5, 14#5, 15#5] →
      exec (.mfc0 rt rd) s = .refused .noSuchCp0Register)

/-- MTC0 of every implemented register: what it changes, field by field, and that nothing else changes; the
read-only registers ignore it; a number without a register is refused (R276). -/
def Obligations.Mtc0Writes : Prop :=
  ∀ (s : State) (rt rd : RegIdx), s.cop0Usable = true →
    (rd ∉ [0#5, 1#5, 2#5, 8#5, 10#5, 12#5, 13#5, 14#5, 15#5] →
      exec (.mtc0 rt rd) s = .refused .noSuchCp0Register)
    ∧ (rd ∈ [0#5, 1#5, 2#5, 8#5, 10#5, 12#5, 13#5, 14#5, 15#5] →
      ∃ t, exec (.mtc0 rt rd) s = .next t ∧ KeepsRegs s t ∧ SameMemory s t ∧ SameOutside s t
      ∧ t.random = s.random ∧ t.badVAddr = s.badVAddr ∧ t.epc = s.epc ∧ t.tlb = s.tlb
      ∧ (∀ i, i < 32 → bitAt t.index i =
          if rd = 0#5 ∧ 8 ≤ i ∧ i ≤ 13 then bitAt (s.rt rt) i else bitAt s.index i)
      ∧ (rd ≠ 2#5 → t.entryLo = s.entryLo)
      ∧ (rd = 2#5 → ∀ i, 8 ≤ i → i < 32 → bitAt t.entryLo i = bitAt (s.rt rt) i)
      ∧ (rd ≠ 10#5 → t.entryHi = s.entryHi)
      ∧ (rd = 10#5 → ∀ i, 6 ≤ i → i < 32 → bitAt t.entryHi i = bitAt (s.rt rt) i)
      ∧ (rd ≠ 12#5 → t.status = s.status)
      ∧ (rd = 12#5 → (∀ i ∈ [0, 1, 2, 3, 4, 5, 8, 9, 10, 11, 12, 13, 14, 15, 22, 24, 25, 26, 28],
            bitAt t.status i = bitAt (s.rt rt) i)
          ∧ bitAt t.status 29 = false ∧ bitAt t.status 30 = false ∧ bitAt t.status 31 = false)
      ∧ (∀ i, i < 32 → bitAt t.cause i =
          if rd = 13#5 ∧ (i = 8 ∨ i = 9) then bitAt (s.rt rt) i else bitAt s.cause i))

/-- TLBWI and TLBWR: the slot that Index, or Random, names takes EntryHi and EntryLo; every other slot is kept;
TLBWI of a slot beyond the TLB is refused (R281, R282). -/
def Obligations.TlbWrites : Prop :=
  ∀ (s : State), s.cop0Usable = true →
    (s.indexIndex.toNat < s.params.tlbSize →
        ∃ t, exec .tlbwi s = .next t ∧ KeepsRegs s t ∧ SameMemory s t
          ∧ SameSystem { s with tlb := t.tlb } t
          ∧ ∀ k, k < 64 → t.tlbAt k =
              if k = s.indexIndex.toNat then { hi := s.entryHi, lo := s.entryLo } else s.tlbAt k)
      ∧ (s.params.tlbSize ≤ s.indexIndex.toNat → exec .tlbwi s = .refused .tlbIndexOutOfRange)
      ∧ (∃ t, exec .tlbwr s = .next t ∧ KeepsRegs s t ∧ SameMemory s t
          ∧ SameSystem { s with tlb := t.tlb } t
          ∧ ∀ k, k < 64 → t.tlbAt k =
              if k = s.randomIndex.toNat then { hi := s.entryHi, lo := s.entryLo } else s.tlbAt k)

/-- TLBR and TLBCLR: the slot Index names goes into EntryHi and EntryLo, the ASID with it, a slot beyond the TLB being
refused (R283); slots 1 to TLBSIZE-1 become zero and slot 0 is kept (R284). -/
def Obligations.TlbReadAndClear : Prop :=
  ∀ (s : State), s.cop0Usable = true →
    (s.indexIndex.toNat < s.params.tlbSize →
        ∃ t, exec .tlbr s = .next t ∧ KeepsRegs s t ∧ SameMemory s t
          ∧ SameSystem { s with entryHi := t.entryHi, entryLo := t.entryLo } t
          ∧ t.entryHi = (s.tlbAt s.indexIndex.toNat).hi ∧ t.entryLo = (s.tlbAt s.indexIndex.toNat).lo)
      ∧ (s.params.tlbSize ≤ s.indexIndex.toNat → exec .tlbr s = .refused .tlbIndexOutOfRange)
      ∧ (∃ t, exec .tlbclr s = .next t ∧ KeepsRegs s t ∧ SameMemory s t
          ∧ SameSystem { s with tlb := t.tlb } t
          ∧ t.tlbAt 0 = s.tlbAt 0
          ∧ ∀ k, 1 ≤ k → k < s.params.tlbSize → k < 64 → t.tlbAt k = { hi := 0#32, lo := 0#32 })

/-- TLBP: Index.P is 0 and TLB-Index the slot translation would use for the page in EntryHi, or Index.P is 1 when
none matches; nothing but Index changes (R285). -/
def Obligations.TlbProbe : Prop :=
  ∀ (s : State), s.cop0Usable = true → s.params.wf = true →
    ∃ t, exec .tlbp s = .next t ∧ KeepsRegs s t ∧ SameMemory s t ∧ SameSystem { s with index := t.index } t
      ∧ (∀ k, s.tlbLookup (s.entryHi.extractLsb' 12 20) = some k →
          bitAt t.index 31 = false ∧ (t.index.extractLsb' 8 6).toNat = k)
      ∧ (s.tlbLookup (s.entryHi.extractLsb' 12 20) = none → bitAt t.index 31 = true)

/-! ### Clocks and the bus (R383 to R386, R480) -/

/-- Random: TLBSIZE-1 at reset, one less every cycle down to 1, then TLBSIZE-1 again: always in 1..TLBSIZE-1;
read-only (R56). -/
def Obligations.RandomCycles : Prop :=
  (∀ (p : Params) (m : Media), p.wf = true → (State.resetWith p m).randomIndex.toNat = p.tlbSize - 1)
    ∧ (∀ (s : State) (rt : RegIdx), s.cop0Usable = true →
        ∃ t, exec (.mtc0 rt 1#5) s = .next t ∧ t.random = s.random)
    ∧ ∀ s : State, s.params.wf = true →
      (s.tick.randomIndex.toNat =
          if s.randomIndex.toNat ≤ 1 then s.params.tlbSize - 1 else s.randomIndex.toNat - 1)
        ∧ (s.randomIndex.toNat < s.params.tlbSize →
          1 ≤ s.tick.randomIndex.toNat ∧ s.tick.randomIndex.toNat ≤ s.params.tlbSize - 1)

/-- The Interval Timer: a store to it sets the count and acknowledges; after that, `n` ticks leave it `n` below and
nothing pending while n ≤ v, and the tick after makes it 0xFFFFFFFF with its interrupt pending (R384, R385). -/
def Obligations.TimerCountsDown : Prop :=
  ∀ (s : State) (v : Word) (n : Nat), n ≤ v.toNat →
    ((fun u : State => u.tick)^[n] (s.writeBus 8 v)).timer.toNat = v.toNat - n
      ∧ ((fun u : State => u.tick)^[n] (s.writeBus 8 v)).timerPending = false
      ∧ ((fun u : State => u.tick)^[v.toNat + 1] (s.writeBus 8 v)).timer = 0xFFFFFFFF#32
      ∧ ((fun u : State => u.tick)^[v.toNat + 1] (s.writeBus 8 v)).timerPending = true

/-- SW in the bus and device area: at 0x10000020 it sets the Interval Timer and acknowledges it (R385), at a device
register it is a store to that word of the device (R395), at every other word it is ignored (R92, R380, R387, R388);
nothing else changes. The other four stores are refused there: SB and SH by R92, and all four, SWL and SWR at every
byte position, by item 29 of spec/93_implementation_defined.md, which names them. That an access which traps at an
earlier step of R96 takes its exception and is not refused is the model's reading of that order (DEDUCED, log
entry 27). -/
def Obligations.BusAreaStores : Prop :=
  ∀ (s : State) (rt rs : RegIdx) (imm : BitVec 16) (pa : Word),
    s.resolve .store (s.rs rs + imm.signExtend 32) = .ok pa →
    (regionOf s.params pa 4 = .device → (s.rs rs + imm.signExtend 32).toNat % 4 = 0 →
      (pa = 0x10000020#32 → ∃ t, exec (.sw rt rs imm) s = .next t ∧ t.timer = s.rt rt ∧ t.timerPending = false
          ∧ KeepsRegs s t ∧ SameMemory s t ∧ SameSystem { s with timer := t.timer, timerPending := t.timerPending } t)
        ∧ (pa.toNat < 0x10000050 → pa ≠ 0x10000020#32 →
          ∃ t, exec (.sw rt rs imm) s = .next t ∧ MemoryOnly s t ∧ SameMemory s t)
        ∧ (∀ (line : Nat) (d : DevNo) (f : Nat), 3 ≤ line → line ≤ 7 → f < 4 → pa.toNat = deviceAddr line d f →
          ∃ t, exec (.sw rt rs imm) s = .next t ∧ KeepsRegs s t ∧ SameMemory s t
            ∧ SameSystem (s.writeDevice line d f (s.rt rt)) t))
    ∧ (s.params.wf = true → regionOf s.params pa 1 = .device →
      ∀ i ∈ [Instr.sb rt rs imm, .sh rt rs imm, .swl rt rs imm, .swr rt rs imm],
        mayAccess i (s.rs rs + imm.signExtend 32) = true → exec i s = .refused .subWordDeviceAccess)

/-- One step is one clock tick, whatever happens in it: Time of Day goes up by one (R383, R480, R481). Without the
ROM contract, whose macro-steps take several cycles, and without a host action. -/
def Obligations.EveryStepTicksOnce : Prop :=
  ∀ s t : State, s.inputs = [] → s.params.romContract = false → step s = .next t →
    t.tod = s.tod + 1#64 ∧ t.random = s.tick.random

/-! ### Devices (R395 to R434) -/

/-- A store to COMMAND of an idle disk, tape with a cartridge, printer, terminal receiver or terminal transmitter, by
its code: ACK and RESET clear the interrupt and set Device Ready, an operation makes it busy with the COMMAND and
DATA0 of that moment, any other code is an error that interrupts; the other half of a terminal is as before (R396,
R400, R401, R408, R425, R428, R430). An accepted RESET also puts a disk's boom at cylinder 0 and a tape at TS, any other
command leaves them (R400); a tape without a cartridge ignores COMMAND (R416). A store to DATA0 of an idle disk, tape or
printer puts the word there (R401, R408, R421); that a tape without a cartridge takes it too is the model's reading
(DEDUCED, log entry 20). A store to STATUS or DATA1, and to a terminal's two status words, is ignored (R92, R395, R406,
R416, R421, R425). Nothing else in the machine changes, but that a RESET or an operation of a tape ends a word the host
put into DATA1, the model's choice (log entry 12). -/
def Obligations.CommandProtocol : Prop :=
  (∀ (s : State) (d : DevNo) (v : Word) (old new : DevReg) (last : Nat) (terminal : Bool),
    (s.params.disks.getLsbD d = true ∧ old = s.disks[d].reg ∧ new = (s.writeDevice 3 d 1 v).disks[d].reg ∧ last = 4
        ∧ terminal = false)
      ∨ (s.params.tapes.getLsbD d = true ∧ s.tapes[d].cartridge ≠ none ∧ old = s.tapes[d].reg
        ∧ new = (s.writeDevice 4 d 1 v).tapes[d].reg ∧ last = 4 ∧ terminal = false)
      ∨ (s.params.printers.getLsbD d = true ∧ old = s.printers[d].reg
        ∧ new = (s.writeDevice 6 d 1 v).printers[d].reg ∧ last = 2 ∧ terminal = false)
      ∨ (s.params.terminals.getLsbD d = true ∧ old = s.terminals[d].recv
        ∧ new = (s.writeDevice 7 d 1 v).terminals[d].recv ∧ last = 2 ∧ terminal = true)
      ∨ (s.params.terminals.getLsbD d = true ∧ old = s.terminals[d].transm
        ∧ new = (s.writeDevice 7 d 3 v).terminals[d].transm ∧ last = 2 ∧ terminal = true) →
    old.busy = none →
    (new.command = v ∧ new.data0 = old.data0 ∧ new.failing = old.failing
      ∧ (v.toNat % 256 ≤ 1 → new.shows terminal 1#8 ∧ new.pending = false ∧ new.busy = none)
      ∧ (2 ≤ v.toNat % 256 → v.toNat % 256 ≤ last → new.shows terminal 3#8 ∧ new.pending = false
          ∧ ∃ b, new.busy = some b ∧ b.command = v ∧ b.data0 = old.data0 ∧ b.elapsed = 0)
      ∧ (last < v.toNat % 256 → new.shows terminal 2#8 ∧ new.pending = true ∧ new.busy = none))
    ∧ (s.writeDevice 7 d 1 v).terminals[d].transm = s.terminals[d].transm
    ∧ (s.writeDevice 7 d 3 v).terminals[d].recv = s.terminals[d].recv)
  ∧ ∀ (s : State) (d : DevNo) (v : Word),
    (s.params.disks.getLsbD d = true → s.disks[d].reg.busy = none →
        s.writeDevice 3 d 2 v
            = { s with disks := s.disks.set d { s.disks[d] with reg := { s.disks[d].reg with data0 := v } } }
          ∧ ∃ k : Disk, s.writeDevice 3 d 1 v = { s with disks := s.disks.set d k }
            ∧ k.boom = (if v.toNat % 256 = 0 then 0 else s.disks[d].boom) ∧ k.image = s.disks[d].image
            ∧ k.reg.data1 = s.disks[d].reg.data1)
      ∧ (s.params.tapes.getLsbD d = true → s.tapes[d].reg.busy = none →
        s.writeDevice 4 d 2 v
            = { s with tapes := s.tapes.set d { s.tapes[d] with reg := { s.tapes[d].reg with data0 := v } } }
          ∧ (s.tapes[d].cartridge = none → s.writeDevice 4 d 1 v = s)
          ∧ (s.tapes[d].cartridge ≠ none → ∃ k : Tape, s.writeDevice 4 d 1 v = { s with tapes := s.tapes.set d k }
            ∧ k.head = (if v.toNat % 256 = 0 then 0 else s.tapes[d].head) ∧ k.cartridge = s.tapes[d].cartridge
            ∧ k.reg.data1 = if v.toNat % 256 = 1 ∨ 4 < v.toNat % 256 then s.tapes[d].reg.data1 else none))
      ∧ (s.params.printers.getLsbD d = true → s.printers[d].reg.busy = none →
        s.writeDevice 6 d 2 v
            = { s with printers := s.printers.set d { s.printers[d] with reg := { s.printers[d].reg with data0 := v } } }
          ∧ ∃ k : Printer, s.writeDevice 6 d 1 v = { s with printers := s.printers.set d k }
            ∧ k.output = s.printers[d].output ∧ k.reg.data1 = s.printers[d].reg.data1)
      ∧ (s.params.terminals.getLsbD d = true → ∀ f ∈ [1, 3], ∃ k : Terminal,
        s.writeDevice 7 d f v = { s with terminals := s.terminals.set d k }
          ∧ k.input = s.terminals[d].input ∧ k.output = s.terminals[d].output)
      ∧ (∀ line ∈ [3, 4, 6], ∀ f ∈ [0, 3], s.writeDevice line d f v = s)
      ∧ ∀ f ∈ [0, 2], s.writeDevice 7 d f v = s

/-- Freezing: a store to any word of a busy device changes nothing, the two halves of a terminal freezing
separately; an uninstalled device, every network slot among them, reads zero in all its words and ignores every
store (R397, R398, R420). -/
def Obligations.FrozenDevices : Prop :=
  ∀ (s : State) (d : DevNo) (f : Nat) (v : Word),
    ((s.disks[d].reg.busy ≠ none → (s.writeDevice 3 d f v) = s)
        ∧ (s.tapes[d].reg.busy ≠ none → (s.writeDevice 4 d f v) = s)
        ∧ (s.printers[d].reg.busy ≠ none → (s.writeDevice 6 d f v) = s)
        ∧ (s.terminals[d].recv.busy ≠ none → ∀ g ∈ [0, 1], s.writeDevice 7 d g v = s)
        ∧ (s.terminals[d].transm.busy ≠ none → ∀ g ∈ [2, 3], s.writeDevice 7 d g v = s))
      ∧ ∀ line : Nat,
        (line = 3 → s.params.disks.getLsbD d = false) → (line = 4 → s.params.tapes.getLsbD d = false) →
        (line = 6 → s.params.printers.getLsbD d = false) → (line = 7 → s.params.terminals.getLsbD d = false) →
        s.readDevice line d f = 0#32 ∧ s.writeDevice line d f v = s

/-- A printer that took PRINTCHR completes after the number of steps its operation has: not before, and then the
character that was in DATA0 when the command was accepted is at the end of its output, its status Device Ready, its
interrupt pending (R396, R423). -/
def Obligations.PrinterPrintsCharacter : Prop :=
  ∀ (k : Printer) (d : DevNo) (b : Busy) (n : Nat),
    k.reg.busy = some b → k.reg.failing = false → b.elapsed + n + 1 = max b.total (b.elapsed + 1) →
    ((fun x : Printer => x.tick d)^[n] k).output = k.output
      ∧ ((fun x : Printer => x.tick d)^[n] k).reg.busy.isSome = true
      ∧ ((fun x : Printer => x.tick d)^[n + 1] k).output = k.output ++ [b.data0.extractLsb' 0 8]
      ∧ ((fun x : Printer => x.tick d)^[n + 1] k).reg.status = 1#32
      ∧ ((fun x : Printer => x.tick d)^[n + 1] k).reg.pending = true
      ∧ ((fun x : Printer => x.tick d)^[n + 1] k).reg.busy = none

/-- A terminal's receiver completes only with a character in the buffer, which it takes from the front; with none
it stays busy and raises no interrupt, with the failure switch on as without (R402, R432). -/
def Obligations.ReceiverWaitsForInput : Prop :=
  ∀ (k : Terminal) (d : DevNo) (b : Busy) (draws : Nat), k.recv.busy = some b →
    (k.input = [] → (k.recvTick d draws).recv.busy.isSome = true
        ∧ (k.recvTick d draws).recv.pending = k.recv.pending
        ∧ (k.recvTick d draws).recv.status = k.recv.status ∧ (k.recvTick d draws).input = [])
      ∧ ∀ c rest, k.input = c :: rest → b.total ≤ b.elapsed + 1 →
        (k.recvTick d draws).recv.pending = true ∧ (k.recvTick d draws).recv.busy = none
          ∧ (k.recvTick d draws).transm = k.transm
          ∧ (k.recv.failing = false → (k.recvTick d draws).input = rest
            ∧ (k.recvTick d draws).recv.status = BitVec.ofNat 32 (c.toNat * 256 + 5))
          ∧ (k.recv.failing = true → (k.recvTick d draws).recv.shows true 4#8)

/-- A disk's READBLK: when the operation has run from its start to its end with nothing else happening, every byte
of the block that its COMMAND named, (boom, HEADNUM, SECTNUM) with HEADNUM = COMMAND[23:16] below MAXHEAD and SECTNUM =
COMMAND[15:8] below MAXSECT, is at its place in RAM from its DATA0 on, no other byte of memory has changed, the
status is Device Ready and the interrupt pending (R399, R405, R408, R409, R410). Where in the disk's image that block
lies, the order of the blocks, is the model's choice (log entry 15). -/
def Obligations.DiskReadTransfersBlock : Prop :=
  ∀ (s : State) (d : DevNo) (b : Busy) (off n : Nat),
    s.disks[d].reg.busy = some b → b.elapsed = 0 → b.total = n + 1 → s.disks[d].reg.failing = false →
    b.command.extractLsb' 0 8 = 3#8 →
    ∀ head sect : Nat, head = (b.command.extractLsb' 16 8).toNat → sect = (b.command.extractLsb' 8 8).toNat →
    head < s.params.diskGeom[d].maxHead.toNat → sect < s.params.diskGeom[d].maxSect.toNat →
    off = ((s.disks[d].boom * s.params.diskGeom[d].maxHead.toNat + head) * s.params.diskGeom[d].maxSect.toNat + sect)
      * 4096 →
    b.data0.toNat % 4 = 0 → 0x20000000 ≤ b.data0.toNat →
    b.data0.toNat + 4096 ≤ 0x20000000 + s.params.ramSize →
    ∀ t : State, t = (fun u : State => u.diskTick d)^[n + 1] s →
      (∀ j, j < 4096 → t.mem.read (b.data0.toNat + j) = s.disks[d].image.read (off + j))
        ∧ (∀ a : Nat, (a < b.data0.toNat ∨ b.data0.toNat + 4096 ≤ a) → t.mem.read a = s.mem.read a)
        ∧ t.disks[d].reg.status = 1#32 ∧ t.disks[d].reg.pending = true ∧ t.disks[d].reg.busy = none

/-- Every device follows the protocol at every step: Device Busy is shown exactly while busy, with no interrupt
pending then, and an idle terminal half interrupts exactly with status byte 2, 4 or 5 (R396, R429); edits of device
registers by the host apart. -/
def Obligations.StepKeepsDeviceProtocol : Prop :=
  ∀ s t : State, s.devicesSound = true → s.noDeviceEdits = true → step s = .next t →
    t.devicesSound = true ∧ t.noDeviceEdits = true

/-! ### Reset (70_reset_and_hazards.md, 10_state.md) -/

/-- The reset values of R66's table and of the device words, in every configuration and with every media: $0 and $SP 0 (R24), pc
0x1FC00000 with its successor (R29), no delay pending (R31), Status 0x10400000 (R42), no line asserted (R49), PRId,
Random TLBSIZE-1 (R56), the core image (R456), TOD 0 (R383), Interval Timer 0xFFFFFFFF (R384), no interrupt pending,
every device idle, and all the words of every device, installed or not (R397, R406, R416, R420, R426),
a disk's boom at cylinder 0 (R405, D47). -/
def Obligations.ResetValues : Prop :=
  ∀ (p : Params) (m : Media), p.wf = true → ∀ s : State, s = State.resetWith p m →
    (s.reg 0#5 = 0#32 ∧ s.reg 29#5 = 0#32 ∧ s.pc = 0x1FC00000#32 ∧ s.npc = 0x1FC00004#32 ∧ s.inslot = false
        ∧ s.ldelay = none ∧ s.status = 0x10400000#32 ∧ (∀ i, 10 ≤ i → i < 16 → bitAt s.causeRead i = false)
        ∧ (s.random.extractLsb' 8 6).toNat = p.tlbSize - 1 ∧ s.cp0Read 15#5 = some p.prid
        ∧ s.tod = 0#64 ∧ s.timer = 0xFFFFFFFF#32 ∧ s.timerPending = false)
      ∧ (p.loadCore = true → ∀ (i : Nat) (h : i < p.coreFile.length), s.mem.read (0x20001000 + i) = p.coreFile[i])
      ∧ ∀ d : DevNo,
        (s.disks[d].reg.busy = none ∧ s.tapes[d].reg.busy = none ∧ s.printers[d].reg.busy = none
            ∧ s.terminals[d].recv.busy = none ∧ s.terminals[d].transm.busy = none)
          ∧ (∀ line, s.interruptPending line d = false) ∧ s.terminals[d].input = [] ∧ s.disks[d].boom = 0
          ∧ [s.readDevice 3 d 0, s.readDevice 3 d 1, s.readDevice 3 d 2, s.readDevice 3 d 3] =
            (if p.disks.getLsbD d then
              [1#32, 0#32, 0#32, p.diskGeom[d].maxCyl ++ p.diskGeom[d].maxHead ++ p.diskGeom[d].maxSect]
            else [0#32, 0#32, 0#32, 0#32])
          ∧ [s.readDevice 4 d 0, s.readDevice 4 d 1, s.readDevice 4 d 2, s.readDevice 4 d 3] =
            (if p.tapes.getLsbD d then [1#32, 0#32, 0#32, if m.cartridges[d].isSome then 3#32 else 0#32]
            else [0#32, 0#32, 0#32, 0#32])
          ∧ [s.readDevice 5 d 0, s.readDevice 5 d 1, s.readDevice 5 d 2, s.readDevice 5 d 3]
            = [0#32, 0#32, 0#32, 0#32]
          ∧ [s.readDevice 6 d 0, s.readDevice 6 d 1, s.readDevice 6 d 2, s.readDevice 6 d 3] =
            (if p.printers.getLsbD d then [1#32, 0#32, 0#32, 0#32] else [0#32, 0#32, 0#32, 0#32])
          ∧ [s.readDevice 7 d 0, s.readDevice 7 d 1, s.readDevice 7 d 2, s.readDevice 7 d 3] =
            (if p.terminals.getLsbD d then [1#32, 0#32, 1#32, 0#32] else [0#32, 0#32, 0#32, 0#32])

/-- The machine's invariant and the device protocol hold after reset, in every configuration and with every media
the machine can have. -/
def Obligations.ResetMeetsInvariant : Prop :=
  ∀ (p : Params) (m : Media),
    (m.ok = true → (State.resetWith p m).inv = true) ∧ (State.resetWith p m).devicesSound = true

/-! ### Whole-machine results -/

/-- Every step keeps the invariant: every byte storage stays in its canonical form, every cartridge stays one, CU[3:1]
stay 0, no load is ever pending for $0, Random stays in its range (R40, R21, R226, R56), whatever the host does. That
CU[3:1] and Random stay so under the host's own edits is the model's choice (log entry 12). -/
def Obligations.StepKeepsInvariant : Prop :=
  ∀ s t : State, s.inv = true → step s = .next t → t.inv = true

/-- No step changes a byte below 0x20000000, where both ROMs are: not an instruction in any mode, not DMA, not a ROM
routine (R91, R399), the host apart. -/
def Obligations.RomNeverChanges : Prop :=
  ∀ s t : State, s.inputs = [] → step s = .next t → ∀ a : Nat, a < 0x20000000 → t.mem.read a = s.mem.read a

/-- User-mode with CU[0] = 0 leaves user-mode only by taking an exception, at one of the four vectors, and cannot
write Status, EntryLo, Index or the TLB (R272, R375, R376), the host apart. -/
def Obligations.UserModeIsConfined : Prop :=
  ∀ s t : State, s.inputs = [] → bitAt s.status 1 = true → bitAt s.status 28 = false → step s = .next t →
    (t.status = s.status
        ∨ (Pushed s.status t.status
          ∧ t.pc ∈ [0x1FC00180#32, 0x00000080#32, 0x1FC00100#32, 0x00000000#32]))
      ∧ t.entryLo = s.entryLo ∧ t.index = s.index ∧ t.tlb = s.tlb

/-! ### The ROM contract (45_rom_services.md) -/

/-- The ROM-Excpt handler passes a SYSCALL up: the whole processor state is stored in the SYS/Bp Old Area and no
other byte of memory changes; the machine runs on with the New Area's state, its 29 general registers, HI and LO,
EntryHi, Cause.IP[1:0] and PC, under its Status popped, whose unnamed bits are open (R302, R304, R305). At level 2 a
step that comes to fetch at 0x80 is that handler, after an open number of further cycles (R300). That all of these cycles
come before the handler's effect, and that a load still pending reaches its register before it, is the model's choice
(log entry 16), and so is that the ROM's own stack, 0x20000460 to
0x200004FF and 0x20000800 to 0x20000FFF, is among the bytes that do not change (log entry 34). -/
def Obligations.RomPassesSyscallUp : Prop :=
  (∀ r s : State, ReadyToFetch r s → s.contractFetch = true → s.romEntry = true →
      s.pc = 0x00000080#32 →
      step r = romExcpt (State.runAgents (Config.freeNat .romCycles s.draws) s).commitLoad)
    ∧ ∀ (s : State) (old new : Nat) (word : Nat → Word), s.params.wf = true → s.cause.extractLsb' 2 5 = 8#5 →
      old = s.params.areas.sysBpOld.toNat → new = s.params.areas.sysBpNew.toNat →
      (∀ i, word i = s.mem.readWord s.params.bigEndian (new + 4 * i)) →
      ∃ t st, romExcpt s = .next t
        ∧ (∀ p ∈ [(0, s.entryHi), (1, s.causeRead), (2, s.status), (3, s.epc), (33, s.hi), (34, s.lo)],
          t.mem.readWord s.params.bigEndian (old + 4 * p.1) = p.2)
        ∧ (∀ r : RegIdx, r ∉ [0#5, 26#5, 27#5] →
          t.mem.readWord s.params.bigEndian (old + 4 * (if r.toNat ≤ 25 then r.toNat + 3 else r.toNat + 1)) = s.reg r
            ∧ t.reg r = word (if r.toNat ≤ 25 then r.toNat + 3 else r.toNat + 1))
        ∧ (∀ a : Nat, (a < old ∨ old + 140 ≤ a) → t.mem.read a = s.mem.read a)
        ∧ t.pc = word 3 ∧ t.npc = t.pc + 4#32 ∧ t.inslot = false ∧ t.hi = word 33 ∧ t.lo = word 34
        ∧ t.entryHi.extractLsb' 6 26 = (word 0).extractLsb' 6 26
        ∧ (∀ i, i < 32 → bitAt t.cause i = if i = 8 ∨ i = 9 then bitAt (word 1) i else bitAt s.cause i)
        ∧ (∀ i ∈ [0, 1, 2, 3, 4, 5, 8, 9, 10, 11, 12, 13, 14, 15, 22, 24, 25, 26, 28], bitAt st i = bitAt (word 2) i)
        ∧ bitAt st 29 = false ∧ bitAt st 30 = false ∧ bitAt st 31 = false ∧ Popped st t.status

/-- The ROM-TLB-Refill handler, when the page table is valid and entry `j` is its first that matches: that entry is in
some slot but slot 0, every other slot is kept, the ASID is restored, the stacks are popped and the stream goes on at
EPC, with everything else as it was but $k0 and $k1 (R306 to R308, R310). Two parts of that are the model's choices:
that the ROM's own stack, 0x20000460 to 0x200004FF and 0x20000800 to 0x20000FFF, is among the bytes that do not change
(log entry 34), and that the clocks and the devices are as they were, all the handler's cycles coming before its effect
(log entry 16). -/
def Obligations.RomRefillsFromPageTable : Prop :=
  ∀ (s : State) (table count j : Nat) (hi lo : Nat → Word), s.params.wf = true →
    table = (s.mem.readWord s.params.bigEndian
      (0x20000500 + 12 * (s.entryHi.extractLsb' 6 6).toNat
        + 4 * (if bitAt s.badVAddr 31 then (if bitAt s.badVAddr 30 then 2 else 1) else 0))).toNat →
    0x20000000 ≤ table → table % 4 = 0 →
    (s.mem.readWord s.params.bigEndian table).extractLsb' 24 8 = 0x2A#8 →
    count = ((s.mem.readWord s.params.bigEndian table).extractLsb' 0 20).toNat →
    table + 4 + 8 * count ≤ 0x20000000 + s.params.ramSize →
    (∀ i, hi i = s.mem.readWord s.params.bigEndian (table + 4 + 8 * i)) →
    (∀ i, lo i = s.mem.readWord s.params.bigEndian (table + 8 + 8 * i)) →
    ∀ matching : Nat → Prop,
    (∀ i, matching i ↔ (hi i).extractLsb' 12 20 = s.badVAddr.extractLsb' 12 20
      ∧ (bitAt (lo i) 8 = true ∨ (hi i).extractLsb' 6 6 = s.entryHi.extractLsb' 6 6)) →
    j < count → matching j → (∀ i, i < j → ¬matching i) →
    ∃ t k, romRefill s = .next t ∧ 1 ≤ k ∧ k < s.params.tlbSize ∧ t.tlbAt k = { hi := hi j, lo := lo j }
      ∧ (∀ i, i ≠ k → t.tlbAt i = s.tlbAt i)
      ∧ t.entryHi = (hi j).extractLsb' 12 20 ++ s.entryHi.extractLsb' 6 6 ++ (hi j).extractLsb' 0 6 ∧ t.entryLo = lo j
      ∧ Popped s.status t.status ∧ t.pc = s.epc ∧ t.npc = s.epc + 4#32 ∧ t.inslot = false
      ∧ (∀ r : RegIdx, r ≠ 26#5 → r ≠ 27#5 → t.reg r = s.reg r) ∧ SameHiLo s t ∧ SameMemory s t ∧ SameOutside s t
      ∧ t.index = s.index ∧ t.random = s.random ∧ t.badVAddr = s.badVAddr ∧ t.cause = s.cause ∧ t.epc = s.epc
end

