-- ==== Sys2Proof/Laws/Memory.lean ====
section
/-! SUPPORT. Byte storage: what a read sees after each operation, and that each keeps the canonical form. -/

namespace Sys2Proof.Machine

/-! ### Reads after operations -/

theorem Memory.read_erase (m : Memory) (a b : Nat) :
    (m.erase a).read b = if b = a then Memory.unlisted else m.read b := by
  induction m with
  | nil => simp [Memory.erase, Memory.read]
  | cons c rest ih =>
    obtain ⟨k, v⟩ := c
    simp only [Memory.erase, Memory.read]
    by_cases hk : k = a
    · subst hk
      by_cases hb : b = k
      · subst hb; simpa using ih
      · have hkb : k ≠ b := fun e => hb e.symm
        simpa [hb, hkb] using ih
    · by_cases hb : k = b
      · subst hb; simp [hk, Memory.read]
      · simp [hk, hb, Memory.read, ih]

theorem Memory.read_insert (m : Memory) (a b : Nat) (v : Byte) (h : m.read a = Memory.unlisted ∨ b ≠ a) :
    b ≠ a → (m.insert a v).read b = m.read b := by
  intro hb
  induction m with
  | nil => simp [Memory.insert, Memory.read]; omega
  | cons c rest ih =>
    obtain ⟨k, w⟩ := c
    simp only [Memory.insert]
    split
    · simp [Memory.read]; omega
    · simp only [Memory.read]; split
      · rfl
      · exact ih (.inr hb)

theorem Memory.read_insert_erase (m : Memory) (a : Nat) (v : Byte) : ((m.erase a).insert a v).read a = v := by
  induction m with
  | nil => simp [Memory.insert, Memory.read, Memory.erase]
  | cons c rest ih =>
    obtain ⟨k, w⟩ := c
    simp only [Memory.erase]
    split
    · exact ih
    · simp only [Memory.insert]
      split <;> simp_all [Memory.read]

/-- A read after a write: the byte written at its address, any other byte as before. -/
theorem Memory.read_write (m : Memory) (a b : Nat) (v : Byte) :
    (m.write a v).read b = if b = a then v else m.read b := by
  unfold Memory.write
  by_cases hv : v = Memory.unlisted
  · simp [hv, Memory.read_erase]
  · simp only [hv, if_false]
    by_cases hb : b = a
    · subst hb; simp [Memory.read_insert_erase]
    · simp [Memory.read_insert _ _ _ _ (.inr hb) hb, Memory.read_erase, hb]

/-! ### Byte order -/

theorem halfOfBytes_byteOfHalf (be : Bool) (h : BitVec 16) :
    halfOfBytes be (byteOfHalf be h 0) (byteOfHalf be h 1) = h := by
  cases be <;> simp only [halfOfBytes, byteOfHalf, if_true, if_false, Bool.false_eq_true] <;>
    (apply BitVec.eq_of_getLsbD_eq; intro i hi
     simp only [BitVec.getLsbD_append, BitVec.getLsbD_extractLsb']
     rcases Nat.lt_or_ge i 8 with h8 | h8
     · simp [h8]
     · simp [show ¬ i < 8 by omega, show i - 8 < 8 by omega, show 8 + (i - 8) = i by omega])

theorem wordOfBytes_byteOfWord (be : Bool) (w : Word) :
    wordOfBytes be (byteOfWord be w 0) (byteOfWord be w 1) (byteOfWord be w 2) (byteOfWord be w 3) = w := by
  cases be <;> simp only [wordOfBytes, byteOfWord, if_true, if_false, Bool.false_eq_true] <;>
    (apply BitVec.eq_of_getLsbD_eq; intro i hi
     simp only [BitVec.getLsbD_append, BitVec.getLsbD_extractLsb']
     rcases Nat.lt_or_ge i 8 with h0 | h0
     · simp [h0]
     rcases Nat.lt_or_ge i 16 with h1 | h1
     · simp [show ¬ i < 8 by omega, show i - 8 < 8 by omega, show 8 + (i - 8) = i by omega]
     rcases Nat.lt_or_ge i 24 with h2 | h2
     · simp [show ¬ i < 8 by omega, show ¬ i - 8 < 8 by omega, show i - 8 - 8 < 8 by omega,
         show 16 + (i - 8 - 8) = i by omega]
     · simp [show ¬ i < 8 by omega, show ¬ i - 8 < 8 by omega, show ¬ i - 8 - 8 < 8 by omega,
         show i - 8 - 8 - 8 < 8 by omega, show 24 + (i - 8 - 8 - 8) = i by omega])

theorem Memory.read_writeHalf (be : Bool) (m : Memory) (a b : Nat) (h : BitVec 16) :
    (m.writeHalf be a h).read b =
      if a ≤ b ∧ b < a + 2 then byteOfHalf be h (b - a) else m.read b := by
  simp only [Memory.writeHalf, Memory.read_write]
  by_cases h1 : b = a + 1
  · subst h1; simp
  · by_cases h0 : b = a
    · subst h0; simp
    · simp only [h1, h0, if_false]; rw [if_neg (by omega)]

theorem Memory.read_writeWord (be : Bool) (m : Memory) (a b : Nat) (w : Word) :
    (m.writeWord be a w).read b =
      if a ≤ b ∧ b < a + 4 then byteOfWord be w (b - a) else m.read b := by
  simp only [Memory.writeWord, Memory.read_write]
  by_cases h3 : b = a + 3
  · subst h3; simp
  by_cases h2 : b = a + 2
  · subst h2; simp
  by_cases h1 : b = a + 1
  · subst h1; simp
  by_cases h0 : b = a
  · subst h0; simp
  simp only [h3, h2, h1, h0, if_false]; rw [if_neg (by omega)]

theorem Memory.readWord_writeWord (be : Bool) (m : Memory) (a : Nat) (w : Word) :
    (m.writeWord be a w).readWord be a = w := by
  simp only [Memory.readWord, Memory.read_writeWord]
  simp [show ∀ n, n < 4 → (a ≤ a + n ∧ a + n < a + 4) from fun n hn => by omega, wordOfBytes_byteOfWord]

theorem Memory.readHalf_writeHalf (be : Bool) (m : Memory) (a : Nat) (h : BitVec 16) :
    (m.writeHalf be a h).readHalf be a = h := by
  simp only [Memory.readHalf, Memory.read_writeHalf]
  simp [halfOfBytes_byteOfHalf]

theorem Memory.readWord_writeWord_of_disjoint (be : Bool) (m : Memory) (a b : Nat) (w : Word)
    (h : b + 4 ≤ a ∨ a + 4 ≤ b) : (m.writeWord be a w).readWord be b = m.readWord be b := by
  simp only [Memory.readWord, Memory.read_writeWord]
  rw [if_neg (by omega), if_neg (by omega), if_neg (by omega), if_neg (by omega)]

/-! ### The canonical form -/

/-- Every address of a storage is at least `a`. -/
def Memory.above (a : Nat) : Memory → Prop
  | [] => True
  | (k, _) :: rest => a ≤ k ∧ Memory.above a rest

theorem Memory.above_mono {a b : Nat} (h : a ≤ b) : ∀ {m : Memory}, Memory.above b m → Memory.above a m
  | [], _ => trivial
  | (_, _) :: _, hm => ⟨Nat.le_trans h hm.1, Memory.above_mono h hm.2⟩

/-- The canonical form, address by address. -/
theorem Memory.wf_cons (k : Nat) (v : Byte) (rest : Memory) :
    Memory.wf ((k, v) :: rest) = true ↔ v ≠ Memory.unlisted ∧ Memory.above (k + 1) rest ∧ rest.wf = true := by
  induction rest generalizing k v with
  | nil => simp [Memory.wf, Memory.above]
  | cons c rest ih =>
    obtain ⟨k', v'⟩ := c
    simp only [Memory.wf, Bool.and_eq_true, decide_eq_true_eq, Memory.above]
    constructor
    · rintro ⟨⟨h1, h2⟩, h3⟩
      exact ⟨h1, ⟨h2, Memory.above_mono (by omega) ((ih k' v').1 h3).2.1⟩, h3⟩
    · rintro ⟨h1, ⟨h2, _⟩, h3⟩
      exact ⟨⟨h1, h2⟩, h3⟩

theorem Memory.above_erase {a : Nat} (b : Nat) : ∀ {m : Memory}, Memory.above a m → Memory.above a (m.erase b)
  | [], _ => trivial
  | (k, _) :: rest, h => by
    simp only [Memory.erase]; split
    · exact Memory.above_erase b h.2
    · exact ⟨h.1, Memory.above_erase b h.2⟩

theorem Memory.above_insert {a b : Nat} (v : Byte) (hb : a ≤ b) :
    ∀ {m : Memory}, Memory.above a m → Memory.above a (m.insert b v)
  | [], _ => ⟨hb, trivial⟩
  | (k, _) :: rest, h => by
    simp only [Memory.insert]; split
    · exact ⟨hb, h⟩
    · exact ⟨h.1, Memory.above_insert v hb h.2⟩

theorem Memory.wf_erase (a : Nat) : ∀ {m : Memory}, m.wf = true → (m.erase a).wf = true
  | [], _ => rfl
  | (k, v) :: rest, h => by
    obtain ⟨h1, h2, h3⟩ := (Memory.wf_cons k v rest).1 h
    simp only [Memory.erase]; split
    · exact Memory.wf_erase a h3
    · exact (Memory.wf_cons _ _ _).2 ⟨h1, Memory.above_erase a h2, Memory.wf_erase a h3⟩

theorem Memory.wf_insert (a : Nat) (v : Byte) (hv : v ≠ Memory.unlisted) :
    ∀ {m : Memory}, m.wf = true → (∀ w, (a, w) ∉ m) → (m.insert a v).wf = true
  | [], _, _ => by simp [Memory.insert, Memory.wf, hv]
  | (k, w) :: rest, h, hn => by
    obtain ⟨h1, h2, h3⟩ := (Memory.wf_cons k w rest).1 h
    simp only [Memory.insert]; split
    · exact (Memory.wf_cons _ _ _).2 ⟨hv, ⟨by omega, Memory.above_mono (by omega) h2⟩, h⟩
    · have hk : k ≠ a := fun e => hn w (by simp [e])
      refine (Memory.wf_cons _ _ _).2 ⟨h1, Memory.above_insert v (by omega) h2, ?_⟩
      exact Memory.wf_insert a v hv h3 fun w' hw => hn w' (List.mem_cons_of_mem _ hw)

theorem Memory.not_mem_erase (a : Nat) (w : Byte) : ∀ m : Memory, (a, w) ∉ m.erase a
  | [] => by simp [Memory.erase]
  | (k, v) :: rest => by
    simp only [Memory.erase]; split
    · exact Memory.not_mem_erase a w rest
    · simp only [List.mem_cons, Prod.mk.injEq, not_or]
      exact ⟨fun h => by simp_all, Memory.not_mem_erase a w rest⟩

/-- A write keeps the canonical form. -/
theorem Memory.wf_write {m : Memory} (a : Nat) (v : Byte) (h : m.wf = true) : (m.write a v).wf = true := by
  unfold Memory.write
  split
  · exact Memory.wf_erase a h
  · exact Memory.wf_insert a v ‹_› (Memory.wf_erase a h) fun w => Memory.not_mem_erase a w m

theorem Memory.wf_writeHalf {m : Memory} (be : Bool) (a : Nat) (x : BitVec 16) (h : m.wf = true) :
    (m.writeHalf be a x).wf = true := Memory.wf_write _ _ (Memory.wf_write _ _ h)

theorem Memory.wf_writeWord {m : Memory} (be : Bool) (a : Nat) (x : Word) (h : m.wf = true) :
    (m.writeWord be a x).wf = true :=
  Memory.wf_write _ _ (Memory.wf_write _ _ (Memory.wf_write _ _ (Memory.wf_write _ _ h)))

theorem Memory.wf_load : ∀ (bs : List Byte) (a : Nat) {m : Memory}, m.wf = true → (Memory.load bs a m).wf = true
  | [], _, _, h => h
  | b :: rest, a, _, h => Memory.wf_load rest (a + 1) (Memory.wf_write a b h)

theorem wf_storeWords (be : Bool) : ∀ (ws : List Word) (a : Nat) {m : Memory}, m.wf = true →
    (storeWords be ws a m).wf = true
  | [], _, _, h => h
  | w :: rest, a, _, h => by
    simp only [storeWords]
    exact wf_storeWords be rest (a + 4) (Memory.wf_writeWord be a w h)

theorem Memory.wf_copyWords (moves : Nat → Bool) (src : Memory) (x y : Nat) :
    ∀ (n : Nat) {m : Memory}, m.wf = true → (Memory.copyWords moves src x y n m).wf = true
  | 0, _, h => h
  | n + 1, _, h => by
    have ih := Memory.wf_copyWords moves src x y n h
    simp only [Memory.copyWords]; split
    · exact Memory.wf_write _ _ (Memory.wf_write _ _ (Memory.wf_write _ _ (Memory.wf_write _ _ ih)))
    · exact ih

theorem Memory.wf_scramble (v : Nat → Byte) (inside : Nat → Bool) (base : Nat) :
    ∀ (n : Nat) {m : Memory}, m.wf = true → (Memory.scramble v inside base n m).wf = true
  | 0, _, h => h
  | n + 1, _, h => by
    have ih := Memory.wf_scramble v inside base n h
    simp only [Memory.scramble]; split
    · exact Memory.wf_write _ _ ih
    · exact ih

/-! ### Extensionality: equal reads are equal storages -/

/-- A storage all of whose addresses are above `a` reads as unlisted at `a`. -/
theorem Memory.read_of_above {a : Nat} : ∀ {m : Memory}, Memory.above (a + 1) m → m.read a = Memory.unlisted
  | [], _ => rfl
  | (k, _) :: rest, h => by
    have := h.1
    simp only [Memory.read]; rw [if_neg (by omega)]; exact Memory.read_of_above h.2

/-- Two storages in canonical form that read the same everywhere are the same data. -/
theorem Memory.ext_of_wf : ∀ {m n : Memory}, m.wf = true → n.wf = true → (∀ a, m.read a = n.read a) → m = n
  | [], [], _, _, _ => rfl
  | [], (k, v) :: rest, _, hn, h => by
    obtain ⟨h1, _, _⟩ := (Memory.wf_cons k v rest).1 hn
    have := h k; simp [Memory.read] at this; exact absurd this.symm h1
  | (k, v) :: rest, [], hm, _, h => by
    obtain ⟨h1, _, _⟩ := (Memory.wf_cons k v rest).1 hm
    have := h k; simp [Memory.read] at this; exact absurd this h1
  | (k, v) :: m, (k', v') :: n, hm, hn, h => by
    obtain ⟨h1, h2, h3⟩ := (Memory.wf_cons k v m).1 hm
    obtain ⟨h1', h2', h3'⟩ := (Memory.wf_cons k' v' n).1 hn
    have hk : k = k' := by
      rcases Nat.lt_trichotomy k k' with hlt | heq | hgt
      · have e := h k
        simp only [Memory.read, if_true] at e
        rw [if_neg (by omega), Memory.read_of_above (Memory.above_mono (by omega) h2')] at e
        exact absurd e h1
      · exact heq
      · have e := h k'
        simp only [Memory.read, if_true] at e
        rw [if_neg (by omega), Memory.read_of_above (Memory.above_mono (by omega) h2)] at e
        exact absurd e.symm h1'
    subst hk
    have hv : v = v' := by simpa [Memory.read] using h k
    subst hv
    have : m = n := Memory.ext_of_wf h3 h3' fun a => by
      have e := h a
      simp only [Memory.read] at e
      by_cases ha : k = a
      · subst ha; rw [Memory.read_of_above h2, Memory.read_of_above h2']
      · simpa [ha] using e
    rw [this]

end Sys2Proof.Machine
end

