-- ==== Sys2Proof/Laws/State.lean ====
section
/-! SUPPORT. One lemma per field per update of the state, each true by unfolding. -/

namespace Sys2Proof.Machine

/-! ### The end of an instruction's step -/

@[simp] theorem State.retire_params (s : State) (e : Retire) : (s.retire e).params = s.params := rfl
@[simp] theorem State.retire_gpr (s : State) (e : Retire) : (s.retire e).gpr = writeOpt (writeOpt s.gpr (landing s.ldelay e.load)) e.write := rfl
@[simp] theorem State.retire_hi (s : State) (e : Retire) : (s.retire e).hi = s.hi := rfl
@[simp] theorem State.retire_lo (s : State) (e : Retire) : (s.retire e).lo = s.lo := rfl
@[simp] theorem State.retire_pc (s : State) (e : Retire) : (s.retire e).pc = s.npc := rfl
@[simp] theorem State.retire_npc (s : State) (e : Retire) : (s.retire e).npc = e.target.getD s.succ := rfl
@[simp] theorem State.retire_succPc (s : State) (e : Retire) : (s.retire e).succPc = none := rfl
@[simp] theorem State.retire_inslot (s : State) (e : Retire) : (s.retire e).inslot = e.branch := rfl
@[simp] theorem State.retire_ldelay (s : State) (e : Retire) : (s.retire e).ldelay = newDelay e.load := rfl
@[simp] theorem State.retire_index (s : State) (e : Retire) : (s.retire e).index = s.index := rfl
@[simp] theorem State.retire_random (s : State) (e : Retire) : (s.retire e).random = s.random := rfl
@[simp] theorem State.retire_entryLo (s : State) (e : Retire) : (s.retire e).entryLo = s.entryLo := rfl
@[simp] theorem State.retire_badVAddr (s : State) (e : Retire) : (s.retire e).badVAddr = s.badVAddr := rfl
@[simp] theorem State.retire_entryHi (s : State) (e : Retire) : (s.retire e).entryHi = s.entryHi := rfl
@[simp] theorem State.retire_status (s : State) (e : Retire) : (s.retire e).status = s.status := rfl
@[simp] theorem State.retire_cause (s : State) (e : Retire) : (s.retire e).cause = s.cause := rfl
@[simp] theorem State.retire_epc (s : State) (e : Retire) : (s.retire e).epc = s.epc := rfl
@[simp] theorem State.retire_tlb (s : State) (e : Retire) : (s.retire e).tlb = s.tlb := rfl
@[simp] theorem State.retire_mem (s : State) (e : Retire) : (s.retire e).mem = s.mem := rfl
@[simp] theorem State.retire_tod (s : State) (e : Retire) : (s.retire e).tod = s.tod := rfl
@[simp] theorem State.retire_timer (s : State) (e : Retire) : (s.retire e).timer = s.timer := rfl
@[simp] theorem State.retire_timerPending (s : State) (e : Retire) : (s.retire e).timerPending = s.timerPending := rfl
@[simp] theorem State.retire_disks (s : State) (e : Retire) : (s.retire e).disks = s.disks := rfl
@[simp] theorem State.retire_tapes (s : State) (e : Retire) : (s.retire e).tapes = s.tapes := rfl
@[simp] theorem State.retire_printers (s : State) (e : Retire) : (s.retire e).printers = s.printers := rfl
@[simp] theorem State.retire_terminals (s : State) (e : Retire) : (s.retire e).terminals = s.terminals := rfl
@[simp] theorem State.retire_ended (s : State) (e : Retire) : (s.retire e).ended = s.ended := rfl
@[simp] theorem State.retire_inputs (s : State) (e : Retire) : (s.retire e).inputs = s.inputs := rfl
@[simp] theorem State.retire_draws (s : State) (e : Retire) : (s.retire e).draws = s.draws := rfl

/-! ### The landing of a pending load at an exception -/

@[simp] theorem State.commitLoad_params (s : State) : s.commitLoad.params = s.params := rfl
@[simp] theorem State.commitLoad_gpr (s : State) : s.commitLoad.gpr = writeOpt s.gpr s.ldelay := rfl
@[simp] theorem State.commitLoad_hi (s : State) : s.commitLoad.hi = s.hi := rfl
@[simp] theorem State.commitLoad_lo (s : State) : s.commitLoad.lo = s.lo := rfl
@[simp] theorem State.commitLoad_pc (s : State) : s.commitLoad.pc = s.pc := rfl
@[simp] theorem State.commitLoad_npc (s : State) : s.commitLoad.npc = s.npc := rfl
@[simp] theorem State.commitLoad_succPc (s : State) : s.commitLoad.succPc = s.succPc := rfl
@[simp] theorem State.commitLoad_inslot (s : State) : s.commitLoad.inslot = s.inslot := rfl
@[simp] theorem State.commitLoad_ldelay (s : State) : s.commitLoad.ldelay = none := rfl
@[simp] theorem State.commitLoad_index (s : State) : s.commitLoad.index = s.index := rfl
@[simp] theorem State.commitLoad_random (s : State) : s.commitLoad.random = s.random := rfl
@[simp] theorem State.commitLoad_entryLo (s : State) : s.commitLoad.entryLo = s.entryLo := rfl
@[simp] theorem State.commitLoad_badVAddr (s : State) : s.commitLoad.badVAddr = s.badVAddr := rfl
@[simp] theorem State.commitLoad_entryHi (s : State) : s.commitLoad.entryHi = s.entryHi := rfl
@[simp] theorem State.commitLoad_status (s : State) : s.commitLoad.status = s.status := rfl
@[simp] theorem State.commitLoad_cause (s : State) : s.commitLoad.cause = s.cause := rfl
@[simp] theorem State.commitLoad_epc (s : State) : s.commitLoad.epc = s.epc := rfl
@[simp] theorem State.commitLoad_tlb (s : State) : s.commitLoad.tlb = s.tlb := rfl
@[simp] theorem State.commitLoad_mem (s : State) : s.commitLoad.mem = s.mem := rfl
@[simp] theorem State.commitLoad_tod (s : State) : s.commitLoad.tod = s.tod := rfl
@[simp] theorem State.commitLoad_timer (s : State) : s.commitLoad.timer = s.timer := rfl
@[simp] theorem State.commitLoad_timerPending (s : State) : s.commitLoad.timerPending = s.timerPending := rfl
@[simp] theorem State.commitLoad_disks (s : State) : s.commitLoad.disks = s.disks := rfl
@[simp] theorem State.commitLoad_tapes (s : State) : s.commitLoad.tapes = s.tapes := rfl
@[simp] theorem State.commitLoad_printers (s : State) : s.commitLoad.printers = s.printers := rfl
@[simp] theorem State.commitLoad_terminals (s : State) : s.commitLoad.terminals = s.terminals := rfl
@[simp] theorem State.commitLoad_ended (s : State) : s.commitLoad.ended = s.ended := rfl
@[simp] theorem State.commitLoad_inputs (s : State) : s.commitLoad.inputs = s.inputs := rfl
@[simp] theorem State.commitLoad_draws (s : State) : s.commitLoad.draws = s.draws := rfl

/-! ### Exception entry -/

@[simp] theorem State.takeException_params (s : State) (e : Exc) : (s.takeException e).params = s.params := rfl
@[simp] theorem State.takeException_gpr (s : State) (e : Exc) : (s.takeException e).gpr = s.gpr := rfl
@[simp] theorem State.takeException_hi (s : State) (e : Exc) : (s.takeException e).hi = s.hi := rfl
@[simp] theorem State.takeException_lo (s : State) (e : Exc) : (s.takeException e).lo = s.lo := rfl
@[simp] theorem State.takeException_pc (s : State) (e : Exc) : (s.takeException e).pc = vectorOf s.bev e := rfl
@[simp] theorem State.takeException_npc (s : State) (e : Exc) : (s.takeException e).npc = vectorOf s.bev e + 4#32 := rfl
@[simp] theorem State.takeException_succPc (s : State) (e : Exc) : (s.takeException e).succPc = none := rfl
@[simp] theorem State.takeException_inslot (s : State) (e : Exc) : (s.takeException e).inslot = false := rfl
@[simp] theorem State.takeException_ldelay (s : State) (e : Exc) : (s.takeException e).ldelay = s.ldelay := rfl
@[simp] theorem State.takeException_index (s : State) (e : Exc) : (s.takeException e).index = s.index := rfl
@[simp] theorem State.takeException_random (s : State) (e : Exc) : (s.takeException e).random = s.random := rfl
@[simp] theorem State.takeException_entryLo (s : State) (e : Exc) : (s.takeException e).entryLo = s.entryLo := rfl
@[simp] theorem State.takeException_badVAddr (s : State) (e : Exc) : (s.takeException e).badVAddr = e.badAddr.getD s.badVAddr := rfl
@[simp] theorem State.takeException_entryHi (s : State) (e : Exc) : (s.takeException e).entryHi = entryHiAfter s.entryHi e := rfl
@[simp] theorem State.takeException_status (s : State) (e : Exc) : (s.takeException e).status = pushStacks s.status := rfl
@[simp] theorem State.takeException_cause (s : State) (e : Exc) : (s.takeException e).cause = causeAfter s.cause s.inslot e := rfl
@[simp] theorem State.takeException_epc (s : State) (e : Exc) : (s.takeException e).epc = if s.inslot then s.pc - 4#32 else s.pc := rfl
@[simp] theorem State.takeException_tlb (s : State) (e : Exc) : (s.takeException e).tlb = s.tlb := rfl
@[simp] theorem State.takeException_mem (s : State) (e : Exc) : (s.takeException e).mem = s.mem := rfl
@[simp] theorem State.takeException_tod (s : State) (e : Exc) : (s.takeException e).tod = s.tod := rfl
@[simp] theorem State.takeException_timer (s : State) (e : Exc) : (s.takeException e).timer = s.timer := rfl
@[simp] theorem State.takeException_timerPending (s : State) (e : Exc) : (s.takeException e).timerPending = s.timerPending := rfl
@[simp] theorem State.takeException_disks (s : State) (e : Exc) : (s.takeException e).disks = s.disks := rfl
@[simp] theorem State.takeException_tapes (s : State) (e : Exc) : (s.takeException e).tapes = s.tapes := rfl
@[simp] theorem State.takeException_printers (s : State) (e : Exc) : (s.takeException e).printers = s.printers := rfl
@[simp] theorem State.takeException_terminals (s : State) (e : Exc) : (s.takeException e).terminals = s.terminals := rfl
@[simp] theorem State.takeException_ended (s : State) (e : Exc) : (s.takeException e).ended = s.ended := rfl
@[simp] theorem State.takeException_inputs (s : State) (e : Exc) : (s.takeException e).inputs = s.inputs := rfl
@[simp] theorem State.takeException_draws (s : State) (e : Exc) : (s.takeException e).draws = s.draws := rfl

/-! ### The pop of RFE -/

@[simp] theorem State.returnFromException_params (s : State) : s.returnFromException.params = s.params := rfl
@[simp] theorem State.returnFromException_gpr (s : State) : s.returnFromException.gpr = s.gpr := rfl
@[simp] theorem State.returnFromException_hi (s : State) : s.returnFromException.hi = s.hi := rfl
@[simp] theorem State.returnFromException_lo (s : State) : s.returnFromException.lo = s.lo := rfl
@[simp] theorem State.returnFromException_pc (s : State) : s.returnFromException.pc = s.pc := rfl
@[simp] theorem State.returnFromException_npc (s : State) : s.returnFromException.npc = s.npc := rfl
@[simp] theorem State.returnFromException_succPc (s : State) : s.returnFromException.succPc = s.succPc := rfl
@[simp] theorem State.returnFromException_inslot (s : State) : s.returnFromException.inslot = s.inslot := rfl
@[simp] theorem State.returnFromException_ldelay (s : State) : s.returnFromException.ldelay = s.ldelay := rfl
@[simp] theorem State.returnFromException_index (s : State) : s.returnFromException.index = s.index := rfl
@[simp] theorem State.returnFromException_random (s : State) : s.returnFromException.random = s.random := rfl
@[simp] theorem State.returnFromException_entryLo (s : State) : s.returnFromException.entryLo = s.entryLo := rfl
@[simp] theorem State.returnFromException_badVAddr (s : State) : s.returnFromException.badVAddr = s.badVAddr := rfl
@[simp] theorem State.returnFromException_entryHi (s : State) : s.returnFromException.entryHi = s.entryHi := rfl
@[simp] theorem State.returnFromException_status (s : State) : s.returnFromException.status = popStacks s.status := rfl
@[simp] theorem State.returnFromException_cause (s : State) : s.returnFromException.cause = s.cause := rfl
@[simp] theorem State.returnFromException_epc (s : State) : s.returnFromException.epc = s.epc := rfl
@[simp] theorem State.returnFromException_tlb (s : State) : s.returnFromException.tlb = s.tlb := rfl
@[simp] theorem State.returnFromException_mem (s : State) : s.returnFromException.mem = s.mem := rfl
@[simp] theorem State.returnFromException_tod (s : State) : s.returnFromException.tod = s.tod := rfl
@[simp] theorem State.returnFromException_timer (s : State) : s.returnFromException.timer = s.timer := rfl
@[simp] theorem State.returnFromException_timerPending (s : State) : s.returnFromException.timerPending = s.timerPending := rfl
@[simp] theorem State.returnFromException_disks (s : State) : s.returnFromException.disks = s.disks := rfl
@[simp] theorem State.returnFromException_tapes (s : State) : s.returnFromException.tapes = s.tapes := rfl
@[simp] theorem State.returnFromException_printers (s : State) : s.returnFromException.printers = s.printers := rfl
@[simp] theorem State.returnFromException_terminals (s : State) : s.returnFromException.terminals = s.terminals := rfl
@[simp] theorem State.returnFromException_ended (s : State) : s.returnFromException.ended = s.ended := rfl
@[simp] theorem State.returnFromException_inputs (s : State) : s.returnFromException.inputs = s.inputs := rfl
@[simp] theorem State.returnFromException_draws (s : State) : s.returnFromException.draws = s.draws := rfl

/-! ### The clock tick -/

@[simp] theorem State.tick_params (s : State) : s.tick.params = s.params := rfl
@[simp] theorem State.tick_gpr (s : State) : s.tick.gpr = s.gpr := rfl
@[simp] theorem State.tick_hi (s : State) : s.tick.hi = s.hi := rfl
@[simp] theorem State.tick_lo (s : State) : s.tick.lo = s.lo := rfl
@[simp] theorem State.tick_pc (s : State) : s.tick.pc = s.pc := rfl
@[simp] theorem State.tick_npc (s : State) : s.tick.npc = s.npc := rfl
@[simp] theorem State.tick_succPc (s : State) : s.tick.succPc = s.succPc := rfl
@[simp] theorem State.tick_inslot (s : State) : s.tick.inslot = s.inslot := rfl
@[simp] theorem State.tick_ldelay (s : State) : s.tick.ldelay = s.ldelay := rfl
@[simp] theorem State.tick_index (s : State) : s.tick.index = s.index := rfl
@[simp] theorem State.tick_random (s : State) : s.tick.random = BitVec.ofNat 32 (nextRandom s.params.tlbSize s.randomIndex.toNat) <<< 8 := rfl
@[simp] theorem State.tick_entryLo (s : State) : s.tick.entryLo = s.entryLo := rfl
@[simp] theorem State.tick_badVAddr (s : State) : s.tick.badVAddr = s.badVAddr := rfl
@[simp] theorem State.tick_entryHi (s : State) : s.tick.entryHi = s.entryHi := rfl
@[simp] theorem State.tick_status (s : State) : s.tick.status = s.status := rfl
@[simp] theorem State.tick_cause (s : State) : s.tick.cause = s.cause := rfl
@[simp] theorem State.tick_epc (s : State) : s.tick.epc = s.epc := rfl
@[simp] theorem State.tick_tlb (s : State) : s.tick.tlb = s.tlb := rfl
@[simp] theorem State.tick_mem (s : State) : s.tick.mem = s.mem := rfl
@[simp] theorem State.tick_tod (s : State) : s.tick.tod = s.tod + 1#64 := rfl
@[simp] theorem State.tick_timer (s : State) : s.tick.timer = if s.timer = 0#32 then 0xFFFFFFFF#32 else s.timer - 1#32 := rfl
@[simp] theorem State.tick_timerPending (s : State) : s.tick.timerPending = (s.timerPending || decide (s.timer = 0#32)) := rfl
@[simp] theorem State.tick_disks (s : State) : s.tick.disks = s.disks := rfl
@[simp] theorem State.tick_tapes (s : State) : s.tick.tapes = s.tapes := rfl
@[simp] theorem State.tick_printers (s : State) : s.tick.printers = s.printers := rfl
@[simp] theorem State.tick_terminals (s : State) : s.tick.terminals = s.terminals := rfl
@[simp] theorem State.tick_ended (s : State) : s.tick.ended = s.ended := rfl
@[simp] theorem State.tick_inputs (s : State) : s.tick.inputs = s.inputs := rfl
@[simp] theorem State.tick_draws (s : State) : s.tick.draws = s.draws + 1 := rfl

/-! ### The start of a stream by the ROM -/

@[simp] theorem State.startAt_params (s : State) (t : Word) : (s.startAt t).params = s.params := rfl
@[simp] theorem State.startAt_gpr (s : State) (t : Word) : (s.startAt t).gpr = s.gpr := rfl
@[simp] theorem State.startAt_hi (s : State) (t : Word) : (s.startAt t).hi = s.hi := rfl
@[simp] theorem State.startAt_lo (s : State) (t : Word) : (s.startAt t).lo = s.lo := rfl
@[simp] theorem State.startAt_pc (s : State) (t : Word) : (s.startAt t).pc = t := rfl
@[simp] theorem State.startAt_npc (s : State) (t : Word) : (s.startAt t).npc = t + 4#32 := rfl
@[simp] theorem State.startAt_succPc (s : State) (t : Word) : (s.startAt t).succPc = none := rfl
@[simp] theorem State.startAt_inslot (s : State) (t : Word) : (s.startAt t).inslot = false := rfl
@[simp] theorem State.startAt_ldelay (s : State) (t : Word) : (s.startAt t).ldelay = s.ldelay := rfl
@[simp] theorem State.startAt_index (s : State) (t : Word) : (s.startAt t).index = s.index := rfl
@[simp] theorem State.startAt_random (s : State) (t : Word) : (s.startAt t).random = s.random := rfl
@[simp] theorem State.startAt_entryLo (s : State) (t : Word) : (s.startAt t).entryLo = s.entryLo := rfl
@[simp] theorem State.startAt_badVAddr (s : State) (t : Word) : (s.startAt t).badVAddr = s.badVAddr := rfl
@[simp] theorem State.startAt_entryHi (s : State) (t : Word) : (s.startAt t).entryHi = s.entryHi := rfl
@[simp] theorem State.startAt_status (s : State) (t : Word) : (s.startAt t).status = s.status := rfl
@[simp] theorem State.startAt_cause (s : State) (t : Word) : (s.startAt t).cause = s.cause := rfl
@[simp] theorem State.startAt_epc (s : State) (t : Word) : (s.startAt t).epc = s.epc := rfl
@[simp] theorem State.startAt_tlb (s : State) (t : Word) : (s.startAt t).tlb = s.tlb := rfl
@[simp] theorem State.startAt_mem (s : State) (t : Word) : (s.startAt t).mem = s.mem := rfl
@[simp] theorem State.startAt_tod (s : State) (t : Word) : (s.startAt t).tod = s.tod := rfl
@[simp] theorem State.startAt_timer (s : State) (t : Word) : (s.startAt t).timer = s.timer := rfl
@[simp] theorem State.startAt_timerPending (s : State) (t : Word) : (s.startAt t).timerPending = s.timerPending := rfl
@[simp] theorem State.startAt_disks (s : State) (t : Word) : (s.startAt t).disks = s.disks := rfl
@[simp] theorem State.startAt_tapes (s : State) (t : Word) : (s.startAt t).tapes = s.tapes := rfl
@[simp] theorem State.startAt_printers (s : State) (t : Word) : (s.startAt t).printers = s.printers := rfl
@[simp] theorem State.startAt_terminals (s : State) (t : Word) : (s.startAt t).terminals = s.terminals := rfl
@[simp] theorem State.startAt_ended (s : State) (t : Word) : (s.startAt t).ended = s.ended := rfl
@[simp] theorem State.startAt_inputs (s : State) (t : Word) : (s.startAt t).inputs = s.inputs := rfl
@[simp] theorem State.startAt_draws (s : State) (t : Word) : (s.startAt t).draws = s.draws := rfl

end Sys2Proof.Machine
end

