-- ==== Sys2Proof/Laws/Ops.lean ====
section
/-! SUPPORT. The shared operations, each said once: registers, the end of a step, exception entry. -/

namespace Sys2Proof.Machine

/-! ### Registers -/

/-- A register of a register file: 0 for $0. -/
def regOf (gpr : Vector Word 32) (r : RegIdx) : Word := if r = 0#5 then 0#32 else gpr[r.toNat]'r.isLt

theorem State.reg_eq (s : State) (r : RegIdx) : s.reg r = regOf s.gpr r := rfl

@[simp] theorem State.reg_zero (s : State) : s.reg 0#5 = 0#32 := rfl

@[simp] theorem regOf_zero (g : Vector Word 32) : regOf g 0#5 = 0#32 := rfl

/-- A register after a write: the value in the register written, unless it is $0. -/
theorem regOf_setReg (g : Vector Word 32) (q r : RegIdx) (v : Word) :
    regOf (setReg g q v) r = if r = q then (if q = 0#5 then 0#32 else v) else regOf g r := by
  unfold regOf setReg
  by_cases hq : q = 0#5
  · subst hq
    by_cases hr : r = 0#5
    · subst hr; rfl
    · simp [hr]
  · by_cases hr : r = q
    · subst hr; simp [hq]
    · have hn : q.toNat ≠ r.toNat := fun e => hr (BitVec.eq_of_toNat_eq e.symm)
      simp [hq, hr, hn]

/-- A register after a pending load landed. -/
theorem regOf_settled (s : State) (r : RegIdx) : regOf (writeOpt s.gpr s.ldelay) r = s.settled r := by
  unfold State.settled State.forwarded
  cases h : s.ldelay with
  | none => by_cases hr : r = 0#5 <;> simp [writeOpt, hr, State.reg_eq]
  | some p =>
    obtain ⟨q, v⟩ := p
    simp only [writeOpt, regOf_setReg, State.reg_eq]
    by_cases hr : r = 0#5
    · subst hr
      by_cases hq : (0#5 : RegIdx) = q
      · subst hq; rfl
      · simp [hq]
    · by_cases hq : r = q
      · subst hq; simp [hr]
      · have hq' : ¬ q = r := fun e => hq e.symm
        simp [hr, hq, hq']

@[simp] theorem State.settled_zero (s : State) : s.settled 0#5 = 0#32 := rfl

/-- With no load pending a register is settled. -/
theorem State.settled_of_none (s : State) (h : s.ldelay = none) (r : RegIdx) : s.settled r = s.reg r := by
  by_cases hr : r = 0#5
  · subst hr; rfl
  · simp [State.settled, State.forwarded, h, hr]

/-- An operand that is not the target of a pending load. -/
theorem State.operand_of_not_delayed (s : State) (slot : FreeSlot) (r : RegIdx) (h : s.delayed r = false) :
    s.operand slot r = s.reg r := by
  by_cases hr : r = 0#5
  · subst hr; rfl
  · simp [State.operand, hr, h]

/-! ### The end of a step -/

theorem landing_none (p : Option (RegIdx × Word)) : landing p none = p := by cases p <;> rfl

/-- Everything `retire` does for an instruction that writes at most one register and loads nothing. -/
theorem State.retire_write (s : State) (rd : RegIdx) (v : Word) (e : Retire) (hw : e.write = some (rd, v))
    (hl : e.load = none) : WroteReg s (s.retire e) rd v := by
  refine ⟨?_, fun r hr => ?_⟩ <;>
    simp only [State.reg_eq, State.retire_gpr, hw, hl, landing_none, writeOpt, regOf_setReg]
  · simp
  · rw [if_neg hr]; exact regOf_settled s r

theorem State.retire_sameRegs (s : State) (e : Retire) (hw : e.write = none) (hl : e.load = none) :
    SameRegs s (s.retire e) := by
  intro r
  simp only [State.reg_eq, State.retire_gpr, hw, hl, landing_none, writeOpt]
  exact regOf_settled s r

/-- The registers after a load: its own is not written, every other is settled. -/
theorem State.retire_load (s : State) (rt : RegIdx) (v : Word) (e : Retire) (hw : e.write = none)
    (hl : e.load = some (rt, v)) (r : RegIdx) (hr : r ≠ rt) : (s.retire e).reg r = s.settled r := by
  simp only [State.reg_eq, State.retire_gpr, hw, hl]
  rw [← regOf_settled]
  cases h : s.ldelay with
  | none => rfl
  | some p =>
    obtain ⟨q, w⟩ := p
    simp only [landing, writeOpt]
    by_cases hq : rt = q
    · subst hq; simp [regOf_setReg, hr]
    · simp [hq]

theorem sameSystem_retire (s : State) (e : Retire) : SameSystem s (s.retire e) := by constructor <;> rfl

theorem sameMemory_refl (s t : State) (h : t.mem = s.mem) : SameMemory s t := fun _ => by rw [h]

/-- `finish`: it goes on, and changes the one register. -/
theorem finish_spec (s : State) (rd : RegIdx) (v : Word) : ∃ t, finish s rd v = .next t ∧ WritesOnly s t rd v :=
  ⟨_, rfl, State.retire_write s rd v _ rfl rfl, rfl, ⟨rfl, rfl, rfl, rfl⟩, ⟨rfl, rfl⟩, fun _ => rfl,
    sameSystem_retire s _⟩

/-- `finishHiLo`: it goes on, with HI and LO as given and nothing else changed. -/
theorem finishHiLo_spec (s : State) (hi lo : Word) :
    ∃ t, finishHiLo s hi lo = .next t ∧ t.hi = hi ∧ t.lo = lo ∧ SameRegs s t ∧ t.ldelay = none ∧ GoesOn s t
      ∧ SameMemory s t ∧ SameSystem s t :=
  ⟨_, rfl, rfl, rfl, State.retire_sameRegs ({ s with hi := hi, lo := lo }) {} rfl rfl, rfl, ⟨rfl, rfl, rfl, rfl⟩,
    fun _ => rfl, by constructor <;> rfl⟩

/-- `finishLoad` on a value: it goes on, with the load pending. -/
theorem finishLoad_spec (s : State) (rt : RegIdx) (f : Word → Word) (v : Word) :
    ∃ t, finishLoad s rt f (.ok v) = .next t ∧ LoadsOnly s t rt (f v) :=
  ⟨_, rfl, rfl, fun r hr => State.retire_load s rt (f v) _ rfl rfl r hr, ⟨rfl, rfl, rfl, rfl⟩, ⟨rfl, rfl⟩,
    fun _ => rfl, sameSystem_retire s _⟩

/-- `finishStore` after a store to memory: it goes on, memory is as stored and nothing else has changed. -/
theorem finishStore_spec (s : State) (m : Memory) :
    ∃ t, finishStore s (.ok { s with mem := m }) = .next t ∧ MemoryOnly s t ∧ t.mem = m :=
  ⟨({ s with mem := m } : State).retire {}, rfl,
    ⟨⟨State.retire_sameRegs ({ s with mem := m } : State) {} rfl rfl, rfl, ⟨rfl, rfl, rfl, rfl⟩, ⟨rfl, rfl⟩⟩,
      by constructor <;> rfl⟩, rfl⟩

/-- `finishBranch` outside a delay slot, without a link. -/
theorem finishBranch_spec (s : State) (target : Option Word) (h : s.inslot = false) :
    ∃ t, finishBranch s target none = .next t ∧ SameRegs s t ∧ Branches s t (target.getD (nextButOne s)) :=
  ⟨s.retire { target := target, branch := true }, by simp [finishBranch, h], State.retire_sameRegs s _ rfl rfl, rfl, rfl, rfl, rfl,
    rfl, ⟨rfl, rfl⟩, fun _ => rfl,
    sameSystem_retire s _⟩

/-- `finishBranch` outside a delay slot, with a link. -/
theorem finishBranch_link_spec (s : State) (target : Option Word) (r : RegIdx) (h : s.inslot = false) :
    ∃ t, finishBranch s target (some r) = .next t ∧ WroteReg s t r s.linkValue
      ∧ Branches s t (target.getD (nextButOne s)) :=
  ⟨s.retire { target := target, branch := true, write := some (r, s.linkValue) }, by simp [finishBranch, h],
    State.retire_write s r s.linkValue _ rfl rfl, rfl, rfl, rfl, rfl, rfl, ⟨rfl, rfl⟩,
    fun _ => rfl, sameSystem_retire s _⟩

/-- `proceed`: it goes on from the state it is given. -/
theorem proceed_spec (s : State) :
    ∃ t, proceed s = .next t ∧ KeepsRegs s t ∧ SameMemory s t ∧ SameSystem s t :=
  ⟨_, rfl, ⟨State.retire_sameRegs s {} rfl rfl, rfl, ⟨rfl, rfl, rfl, rfl⟩, ⟨rfl, rfl⟩⟩, fun _ => rfl,
    sameSystem_retire s _⟩

/-! ### Bit fields -/

theorem getLsbD_mergeBits (mask new old : Word) (i : Nat) :
    (mergeBits mask new old).getLsbD i = if mask.getLsbD i then new.getLsbD i else old.getLsbD i := by
  unfold mergeBits
  rw [BitVec.getLsbD_or, BitVec.getLsbD_and, BitVec.getLsbD_and, BitVec.getLsbD_not]
  by_cases hi : i < 32
  · cases h : mask.getLsbD i <;> simp [hi]
  · have h1 : new.getLsbD i = false := BitVec.getLsbD_of_ge _ _ (by omega)
    have h2 : old.getLsbD i = false := BitVec.getLsbD_of_ge _ _ (by omega)
    simp [h1, h2]

/-! ### Exception entry -/

theorem bitAt_pushStacks (st : Word) (i : Nat) (hi : i < 32) :
    bitAt (pushStacks st) i =
      if i = 0 ∨ i = 1 ∨ i = 24 then false
      else if 2 ≤ i ∧ i ≤ 5 then bitAt st (i - 2)
      else if i = 25 ∨ i = 26 then bitAt st (i - 1)
      else bitAt st i := by
  unfold bitAt pushStacks
  rw [getLsbD_mergeBits, getLsbD_mergeBits]
  simp only [BitVec.getLsbD_shiftLeft, BitVec.getLsbD_and]
  interval_cases i <;> simp

theorem bitAt_popStacks (st : Word) (i : Nat) (hi : i < 32) :
    bitAt (popStacks st) i =
      if i ≤ 3 then bitAt st (i + 2) else if i = 24 ∨ i = 25 then bitAt st (i + 1) else bitAt st i := by
  unfold bitAt popStacks
  rw [getLsbD_mergeBits, getLsbD_mergeBits]
  simp only [BitVec.getLsbD_ushiftRight, BitVec.getLsbD_and]
  interval_cases i <;> simp

theorem pushed_pushStacks (st : Word) : Pushed st (pushStacks st) := by
  refine ⟨?_, ?_, ?_, ?_, ?_, ?_, ?_, ?_, ?_, fun i h6 h31 h24 h25 h26 => ?_⟩ <;>
    rw [bitAt_pushStacks st _ (by omega)]
  all_goals first | rfl | (rw [if_neg (by omega), if_neg (by omega), if_neg (by omega)])

theorem popped_popStacks (st : Word) : Popped st (popStacks st) := by
  refine ⟨?_, ?_, ?_, ?_, ?_, ?_, fun i h4 h31 h24 h25 => ?_⟩ <;> rw [bitAt_popStacks st _ (by omega)]
  all_goals first | rfl | (rw [if_neg (by omega), if_neg (by omega)])

theorem getLsbD_excCodeMask : ∀ i : Nat, i < 32 → (0x0000007C#32).getLsbD i = decide (2 ≤ i ∧ i ≤ 6) := by decide

theorem getLsbD_bdMask : ∀ i : Nat, i < 32 → (0x80000000#32).getLsbD i = decide (i = 31) := by decide

theorem getLsbD_ceMask : ∀ i : Nat, i < 32 → (0x30000000#32).getLsbD i = decide (28 ≤ i ∧ i ≤ 29) := by decide

theorem getLsbD_boolWord_31 (b : Bool) : (boolWord b <<< 31).getLsbD 31 = b := by cases b <;> rfl

theorem getLsbD_causeFields (c : Word) (sl : Bool) (code : BitVec 5) (i : Nat) (hi : i < 32) :
    (mergeBits 0x80000000#32 (boolWord sl <<< 31)
      (mergeBits 0x0000007C#32 (code.setWidth 32 <<< 2) c)).getLsbD i =
      if i = 31 then sl else if 2 ≤ i ∧ i ≤ 6 then code.getLsbD (i - 2) else c.getLsbD i := by
  rw [getLsbD_mergeBits, getLsbD_mergeBits, getLsbD_bdMask i hi, getLsbD_excCodeMask i hi]
  by_cases h31 : i = 31
  · subst h31; simp only [decide_true, if_true]; exact getLsbD_boolWord_31 sl
  · by_cases h : 2 ≤ i ∧ i ≤ 6
    · simp only [h31, h, decide_false, BitVec.getLsbD_shiftLeft, BitVec.getLsbD_setWidth]
      simp [hi, show ¬ i < 2 by omega, show i - 2 < 32 by omega]
    · simp [h31, h]

/-- Cause after an entry, bit by bit. -/
theorem bitAt_causeAfter (c : Word) (sl : Bool) (e : Exc) (i : Nat) (hi : i < 32) :
    bitAt (causeAfter c sl e) i =
      if i = 31 then sl
      else if 2 ≤ i ∧ i ≤ 6 then e.code.getLsbD (i - 2)
      else if 28 ≤ i ∧ i ≤ 29 then (match e with | .cpu z => z.getLsbD (i - 28) | _ => bitAt c i)
      else bitAt c i := by
  have key := getLsbD_causeFields c sl e.code i hi
  unfold bitAt causeAfter
  cases e
  case cpu z =>
    dsimp only
    rw [getLsbD_mergeBits, key, getLsbD_ceMask i hi]
    by_cases h : 28 ≤ i ∧ i ≤ 29
    · simp [h, show i ≠ 31 by omega, show ¬ (2 ≤ i ∧ i ≤ 6) by omega, hi, show ¬ i < 28 by omega]
    · simp [h]
  all_goals (dsimp only; rw [key]; simp only [ite_self])

/-- A field of Cause after an entry that is neither BD, ExcCode nor CE is kept. -/
theorem causeAfter_softwareLines (c : Word) (sl : Bool) (e : Exc) :
    (causeAfter c sl e).extractLsb' 8 2 = c.extractLsb' 8 2 := by
  apply BitVec.eq_of_getLsbD_eq
  intro i hi
  have h := bitAt_causeAfter c sl e (8 + i) (by omega)
  rw [if_neg (by omega), if_neg (by omega), if_neg (by omega)] at h
  simpa [bitAt, BitVec.getLsbD_extractLsb', hi] using h

theorem causeAfter_excCode (c : Word) (sl : Bool) (e : Exc) : (causeAfter c sl e).extractLsb' 2 5 = e.code := by
  apply BitVec.eq_of_getLsbD_eq
  intro i hi
  have h := bitAt_causeAfter c sl e (2 + i) (by omega)
  rw [if_neg (by omega), if_pos (by omega)] at h
  simpa [bitAt, BitVec.getLsbD_extractLsb', hi] using h

/-- CE after a Coprocessor Unusable exception. -/
theorem causeAfter_ce (c : Word) (sl : Bool) (z : BitVec 2) :
    (causeAfter c sl (.cpu z)).extractLsb' 28 2 = z := by
  apply BitVec.eq_of_getLsbD_eq
  intro i hi
  have h := bitAt_causeAfter c sl (.cpu z) (28 + i) (by omega)
  rw [if_neg (by omega), if_neg (by omega), if_pos (by omega)] at h
  simpa [bitAt, BitVec.getLsbD_extractLsb', hi] using h

theorem getLsbD_pageMask : ∀ i : Nat, i < 32 → (0xFFFFF000#32).getLsbD i = decide (12 ≤ i) := by decide

/-- EntryHi[11:0] is kept by every entry. -/
theorem entryHiAfter_low (h : Word) (e : Exc) : (entryHiAfter h e).extractLsb' 0 12 = h.extractLsb' 0 12 := by
  unfold entryHiAfter
  split
  · apply BitVec.eq_of_getLsbD_eq
    intro i hi
    have hm := getLsbD_pageMask i (by omega)
    simp [hi, getLsbD_mergeBits, hm, show ¬ 12 ≤ i by omega]
  · rfl

/-- EntryHi[31:12] after a TLB exception. -/
theorem entryHiAfter_page (h : Word) (e : Exc) (va : Word) (he : e.tlbAddr = some va) :
    (entryHiAfter h e).extractLsb' 12 20 = va.extractLsb' 12 20 := by
  unfold entryHiAfter
  rw [he]
  apply BitVec.eq_of_getLsbD_eq
  intro i hi
  have hm := getLsbD_pageMask (12 + i) (by omega)
  simp [hi, getLsbD_mergeBits, hm]

/-- Everything an entry does whatever the exception. -/
theorem enters_takeException (s : State) (e : Exc) :
    Enters s (s.takeException e).commitLoad e.code (vectorOf s.bev e) where
  epc := rfl
  bd := by
    have h := bitAt_causeAfter s.cause s.inslot e 31 (by omega)
    rw [if_pos rfl] at h
    exact h
  excCode := causeAfter_excCode _ _ _
  status := pushed_pushStacks _
  pc := rfl
  npc := rfl
  succPc := rfl
  inslot := rfl
  softwareLines := causeAfter_softwareLines _ _ _
  asid := entryHiAfter_low _ _
  index := rfl
  random := rfl
  entryLo := rfl
  tlb := rfl
  regs := fun r => regOf_settled s r
  ldelay := rfl
  hiLo := ⟨rfl, rfl⟩
  memory := fun _ => rfl
  outside := by constructor <;> rfl

theorem vectorOf_general (s : State) (e : Exc) (h : e.isRefill = false) : vectorOf s.bev e = generalVector s := by
  unfold vectorOf generalVector State.bev bitAt
  rw [h]
  cases s.status.getLsbD 22 <;> rfl

theorem vectorOf_refill (s : State) (e : Exc) (h : e.isRefill = true) : vectorOf s.bev e = refillVector s := by
  unfold vectorOf refillVector State.bev bitAt
  rw [h]
  cases s.status.getLsbD 22 <;> rfl

/-- An exception without an address. -/
theorem raise_plain (s : State) (e : Exc) (hb : e.badAddr = none) (ht : e.tlbAddr = none)
    (hr : e.isRefill = false) : ∃ t, raise e s = .next t ∧ EntersPlain s t e.code :=
  ⟨_, rfl, vectorOf_general s e hr ▸ enters_takeException s e,
    by simp [hb], by simp [entryHiAfter, ht]⟩

/-- An Address Error. -/
theorem raise_address (s : State) (e : Exc) (va : Word) (hb : e.badAddr = some va) (ht : e.tlbAddr = none)
    (hr : e.isRefill = false) : ∃ t, raise e s = .next t ∧ EntersAddress s t e.code va :=
  ⟨_, rfl, vectorOf_general s e hr ▸ enters_takeException s e,
    by simp [hb], by simp [entryHiAfter, ht]⟩

/-- A TLB exception or a TLB-Refill event. -/
theorem raise_tlb (s : State) (e : Exc) (va : Word) (hb : e.badAddr = some va) (ht : e.tlbAddr = some va) :
    ∃ t, raise e s = .next t ∧ EntersTlb s t e.code va (vectorOf s.bev e) :=
  ⟨_, rfl, enters_takeException s e, by simp [hb], entryHiAfter_page _ _ _ ht⟩

/-- A software write of Status sets every named field it can, whatever the open bits are (R41, R276). -/
theorem State.statusWritten_named (s : State) (v : Word) : s.statusWritten v &&& statusNamed = v &&& statusNamed := by
  have h : statusUnnamed &&& statusNamed = 0#32 := by decide
  rw [State.statusWritten, BitVec.and_or_distrib_right, BitVec.and_assoc, BitVec.and_self, BitVec.and_assoc, h]
  simp

/-! ### FORK's two parts -/

/-- Between the two parts interrupts are on and the other named fields of Status are as they were (log entry 33). -/
theorem State.forkPause_status_named (s : State) (g : ForkRest) :
    (s.forkPause g).status &&& statusNamed = (s.status ||| 1#32) &&& statusNamed :=
  State.statusWritten_named s _

/-- What the first part of a FORK leaves is what the second part loads (R314). -/
theorem State.forkHeld_forkPause (s : State) (g : ForkRest) : (s.forkPause g).forkHeld = g := by
  simp [State.forkHeld, State.reg_eq, State.forkPause, regOf_setReg]

/-- The second part takes its words from registers a processor state holds (R302), whatever ran in between. -/
theorem State.forkHeld_congr {s t : State} (h : ∀ r : RegIdx, r ≠ 26#5 → r ≠ 27#5 → t.reg r = s.reg r) :
    t.forkHeld = s.forkHeld := by
  simp [State.forkHeld, h]

/-! ### Coprocessor usability -/

theorem ifCop0Usable_pos (s : State) (k : Result) (h : s.cop0Usable = true) : ifCop0Usable s k = k := by
  simp [ifCop0Usable, h]

theorem ifCop0Usable_neg (s : State) (k : Result) (h : s.cop0Usable = false) :
    ifCop0Usable s k = raise (.cpu 0#2) s := by simp [ifCop0Usable, h]

end Sys2Proof.Machine
end

