-- ==== Sys2Proof/Laws/Access.lean ====
section
/-! SUPPORT. The access path, each operation said once: what an answer implies, and what a store can change. -/

namespace Sys2Proof.Machine

/-! ### What an answer implies -/

/-- A read that answers a value was aligned and reached a physical address that answered it. -/
theorem State.memRead_ok {s : State} {k : AccessKind} {w : Width} {va v : Word} (h : s.memRead k w va = .ok v) :
    misaligned w va = false ∧ ∃ pa, s.resolve k va = .ok pa ∧ s.physRead k w pa = .ok v := by
  unfold State.memRead at h
  split at h
  · cases h
  · rename_i hm
    refine ⟨by simpa using hm, ?_⟩
    split at h
    · exact ⟨_, ‹_›, h⟩
    · cases h
    · cases h

/-- A write that succeeds was aligned and reached a physical address. -/
theorem State.memWrite_ok {s t : State} {w : Width} {va v : Word} (h : s.memWrite w va v = .ok t) :
    misaligned w va = false ∧ ∃ pa, s.resolve .store va = .ok pa ∧ s.physWrite w pa v = .ok t := by
  unfold State.memWrite at h
  split at h
  · cases h
  · rename_i hm
    refine ⟨by simpa using hm, ?_⟩
    split at h
    · exact ⟨_, ‹_›, h⟩
    · cases h
    · cases h

/-- What a physical write can be: bytes of RAM, or a word of the bus and device area. -/
theorem State.physWrite_ok {s t : State} {w : Width} {pa v : Word} (h : s.physWrite w pa v = .ok t) :
    (regionOf s.params pa w.bytes = .ram
        ∧ t = { s with mem := s.mem.store s.params.bigEndian w pa.toNat v })
      ∨ (regionOf s.params pa w.bytes = .device ∧ w = .word ∧ t = s.writeBus (busWordOf pa) v) := by
  unfold State.physWrite at h
  split at h
  · cases h; exact .inl ⟨‹_›, rfl⟩
  · split at h
    · cases h; exact .inr ⟨‹_›, ‹_›, rfl⟩
    · cases h
  · cases h

/-- What a physical read can be: bytes of RAM or ROM, or a word of the bus and device area. -/
theorem State.physRead_ok {s : State} {k : AccessKind} {w : Width} {pa v : Word} (h : s.physRead k w pa = .ok v) :
    (regionOf s.params pa w.bytes = .device ∧ w = .word ∧ v = s.readBus (busWordOf pa))
      ∨ (regionOf s.params pa w.bytes ≠ .device ∧ regionOf s.params pa w.bytes ≠ .absent
          ∧ v = s.mem.fetch s.params.bigEndian w pa.toNat) := by
  unfold State.physRead at h
  split at h
  · cases h
  · split at h
    · cases h; exact .inl ⟨‹_›, ‹_›, rfl⟩
    · cases h
  · cases h
    rename_i h1 h2
    exact .inr ⟨h2, h1, rfl⟩

/-- Kernel-mode addresses that are not translated resolve to themselves (R102). -/
theorem State.resolve_physical (s : State) (k : AccessKind) (va : Word) (hk : s.userMode = false)
    (hv : s.vmOn = false ∨ va.toNat < 0x20000000) : s.resolve k va = .ok va := by
  unfold State.resolve State.forbidden
  rcases hv with hv | hv <;> simp [hk, hv]

/-- The slot a search answers: it matches, and no later one below the bound does (R104). -/
theorem State.tlbFind_some {s : State} {page : BitVec 20} {asid : BitVec 6} : ∀ {n k : Nat},
    s.tlbFind page asid n = some k ↔
      k < n ∧ (s.tlbAt k).hits page asid = true ∧ ∀ j, k < j → j < n → (s.tlbAt j).hits page asid = false
  | 0, k => by simp [State.tlbFind]
  | n + 1, k => by
    unfold State.tlbFind
    by_cases h : (s.tlbAt n).hits page asid = true
    · rw [if_pos h]
      constructor
      · intro e; cases e; exact ⟨by omega, h, fun j h1 h2 => by omega⟩
      · rintro ⟨h1, _, h3⟩
        by_cases hk : k = n
        · rw [hk]
        · have := h3 n (by omega) (by omega); simp [this] at h
    · rw [if_neg h, State.tlbFind_some]
      constructor
      · rintro ⟨h1, h2, h3⟩
        refine ⟨by omega, h2, fun j hj hj' => ?_⟩
        by_cases e : j = n
        · subst e; simpa using h
        · exact h3 j hj (by omega)
      · rintro ⟨h1, h2, h3⟩
        have hk : k ≠ n := fun e => h (e ▸ h2)
        exact ⟨by omega, h2, fun j hj hj' => h3 j hj (by omega)⟩

/-- A search answers nothing exactly when no slot below the bound matches (R104). -/
theorem State.tlbFind_none {s : State} {page : BitVec 20} {asid : BitVec 6} : ∀ {n : Nat},
    s.tlbFind page asid n = none ↔ ∀ j, j < n → (s.tlbAt j).hits page asid = false
  | 0 => by simp [State.tlbFind]
  | n + 1 => by
    unfold State.tlbFind
    by_cases h : (s.tlbAt n).hits page asid = true
    · rw [if_pos h]
      constructor
      · intro e; cases e
      · intro hj; have := hj n (by omega); simp [this] at h
    · rw [if_neg h, State.tlbFind_none]
      constructor
      · intro hj j hlt
        by_cases e : j = n
        · subst e; simpa using h
        · exact hj j (by omega)
      · intro hj j hlt; exact hj j (by omega)

/-! ### What a store can change -/

/-- The CPU's own state and the storage are the same: a store to a device changes neither. -/
structure SameCpu (s t : State) : Prop where
  params : t.params = s.params
  gpr : t.gpr = s.gpr
  hi : t.hi = s.hi
  lo : t.lo = s.lo
  pc : t.pc = s.pc
  npc : t.npc = s.npc
  succPc : t.succPc = s.succPc
  inslot : t.inslot = s.inslot
  ldelay : t.ldelay = s.ldelay
  index : t.index = s.index
  random : t.random = s.random
  entryLo : t.entryLo = s.entryLo
  badVAddr : t.badVAddr = s.badVAddr
  entryHi : t.entryHi = s.entryHi
  status : t.status = s.status
  cause : t.cause = s.cause
  epc : t.epc = s.epc
  tlb : t.tlb = s.tlb
  tod : t.tod = s.tod
  ended : t.ended = s.ended
  inputs : t.inputs = s.inputs
  draws : t.draws = s.draws

theorem SameCpu.refl (s : State) : SameCpu s s := by constructor <;> rfl

theorem State.writeDisk_frame (s : State) (d : DevNo) (f : Nat) (v : Word) :
    SameCpu s (s.writeDisk d f v) ∧ (s.writeDisk d f v).mem = s.mem := by
  unfold State.writeDisk; dsimp only; (repeat' split) <;> exact ⟨by constructor <;> rfl, rfl⟩

theorem State.writeTape_frame (s : State) (d : DevNo) (f : Nat) (v : Word) :
    SameCpu s (s.writeTape d f v) ∧ (s.writeTape d f v).mem = s.mem := by
  unfold State.writeTape; dsimp only; (repeat' split) <;> exact ⟨by constructor <;> rfl, rfl⟩

theorem State.writePrinter_frame (s : State) (d : DevNo) (f : Nat) (v : Word) :
    SameCpu s (s.writePrinter d f v) ∧ (s.writePrinter d f v).mem = s.mem := by
  unfold State.writePrinter; dsimp only; (repeat' split) <;> exact ⟨by constructor <;> rfl, rfl⟩

theorem State.writeTerminal_frame (s : State) (d : DevNo) (f : Nat) (v : Word) :
    SameCpu s (s.writeTerminal d f v) ∧ (s.writeTerminal d f v).mem = s.mem := by
  unfold State.writeTerminal; dsimp only; (repeat' split) <;> exact ⟨by constructor <;> rfl, rfl⟩

theorem State.writeDevice_frame (s : State) (l : Nat) (d : DevNo) (f : Nat) (v : Word) :
    SameCpu s (s.writeDevice l d f v) ∧ (s.writeDevice l d f v).mem = s.mem := by
  unfold State.writeDevice
  (repeat' split) <;> first
    | exact s.writeDisk_frame d f v
    | exact s.writeTape_frame d f v
    | exact s.writePrinter_frame d f v
    | exact s.writeTerminal_frame d f v
    | exact ⟨SameCpu.refl s, rfl⟩

/-- A store to the bus and device area changes the timer or a device, never the CPU or the storage. -/
theorem State.writeBus_frame (s : State) (n : Nat) (v : Word) :
    SameCpu s (s.writeBus n v) ∧ (s.writeBus n v).mem = s.mem := by
  unfold State.writeBus
  split
  · exact ⟨by constructor <;> rfl, rfl⟩
  · split
    · exact s.writeDevice_frame _ _ _ _
    · exact ⟨SameCpu.refl s, rfl⟩

theorem State.physWrite_frame {s t : State} {w : Width} {pa v : Word} (h : s.physWrite w pa v = .ok t) :
    SameCpu s t := by
  rcases State.physWrite_ok h with ⟨_, rfl⟩ | ⟨_, _, rfl⟩
  · constructor <;> rfl
  · exact (s.writeBus_frame _ _).1

/-- A store that succeeds leaves the CPU's own state. -/
theorem State.memWrite_frame {s t : State} {w : Width} {va v : Word} (h : s.memWrite w va v = .ok t) :
    SameCpu s t := by
  obtain ⟨_, pa, _, hp⟩ := State.memWrite_ok h
  exact State.physWrite_frame hp

/-- The same of SWL and SWR's store, which is into RAM. -/
theorem State.writeAround_ok {s t : State} {va : Word} {f : Word → Word} (h : s.writeAround va f = .ok t) :
    ∃ pa, s.resolve .store va = .ok pa ∧ regionOf s.params (wordAddr pa) 4 = .ram ∧
      t = { s with mem := s.mem.writeWord s.params.bigEndian (wordAddr pa).toNat
                            (f (s.mem.readWord s.params.bigEndian (wordAddr pa).toNat)) } := by
  unfold State.writeAround at h
  split at h
  · dsimp only at h
    split at h
    · cases h; exact ⟨_, ‹_›, ‹_›, rfl⟩
    · cases h
    · cases h
  · cases h
  · cases h

/-- LWL and LWR's read is of RAM or ROM. -/
theorem State.readAround_ok {s : State} {va v : Word} (h : s.readAround va = .ok v) :
    ∃ pa, s.resolve .load va = .ok pa ∧ regionOf s.params (wordAddr pa) 4 ≠ .device ∧
      s.physRead .load .word (wordAddr pa) = .ok v := by
  unfold State.readAround at h
  split at h
  · split at h
    · cases h
    · exact ⟨_, ‹_›, ‹_›, h⟩
  · cases h
  · cases h

/-! ### The canonical form through stores -/

theorem Memory.wf_store {m : Memory} (be : Bool) (w : Width) (a : Nat) (v : Word) (h : m.wf = true) :
    (m.store be w a v).wf = true := by
  cases w
  · exact Memory.wf_write _ _ h
  · exact Memory.wf_writeHalf _ _ _ h
  · exact Memory.wf_writeWord _ _ _ h

theorem State.memWrite_wf {s t : State} {w : Width} {va v : Word} (h : s.memWrite w va v = .ok t)
    (hm : s.mem.wf = true) : t.mem.wf = true := by
  obtain ⟨_, pa, _, hp⟩ := State.memWrite_ok h
  rcases State.physWrite_ok hp with ⟨_, rfl⟩ | ⟨_, _, rfl⟩
  · exact Memory.wf_store _ _ _ _ hm
  · rw [(s.writeBus_frame _ _).2]; exact hm

theorem State.writeAround_wf {s t : State} {va : Word} {f : Word → Word} (h : s.writeAround va f = .ok t)
    (hm : s.mem.wf = true) : t.mem.wf = true := by
  obtain ⟨_, _, _, rfl⟩ := State.writeAround_ok h
  exact Memory.wf_writeWord _ _ _ hm

/-- The memory after reset is in canonical form. -/
theorem resetMemory_wf (p : Params) : (resetMemory p).wf = true := by
  have roms : (Memory.load p.bootRom 0x1FC00000 (Memory.load p.execRom 0 [])).wf = true :=
    Memory.wf_load _ _ (Memory.wf_load _ _ rfl)
  unfold resetMemory
  dsimp only
  cases p.stst <;> dsimp only <;> split
  · exact Memory.wf_load _ _ roms
  · exact roms
  · exact Memory.wf_load _ _ (wf_storeWords _ _ _ roms)
  · exact wf_storeWords _ _ _ roms

theorem reset_mem_wf : State.reset.mem.wf = true := resetMemory_wf Params.default

end Sys2Proof.Machine
end

