-- ==== Sys2Proof/Laws/Devices.lean ====
section
/-! SUPPORT. What the controllers change: each tick of a device, said once. -/

namespace Sys2Proof.Machine

/-- Only devices and RAM differ. -/
structure SameButDevices (s t : State) : Prop where
  params : t.params = s.params
  gpr : t.gpr = s.gpr
  hi : t.hi = s.hi
  lo : t.lo = s.lo
  pc : t.pc = s.pc
  npc : t.npc = s.npc
  succPc : t.succPc = s.succPc
  inslot : t.inslot = s.inslot
  ldelay : t.ldelay = s.ldelay
  index : t.index = s.index
  random : t.random = s.random
  entryLo : t.entryLo = s.entryLo
  badVAddr : t.badVAddr = s.badVAddr
  entryHi : t.entryHi = s.entryHi
  status : t.status = s.status
  cause : t.cause = s.cause
  epc : t.epc = s.epc
  tlb : t.tlb = s.tlb
  tod : t.tod = s.tod
  timer : t.timer = s.timer
  timerPending : t.timerPending = s.timerPending
  ended : t.ended = s.ended
  inputs : t.inputs = s.inputs
  draws : t.draws = s.draws
  lowMemory : ∀ a : Nat, a < 0x20000000 → t.mem.read a = s.mem.read a
  memWf : s.mem.wf = true → t.mem.wf = true

theorem SameButDevices.refl (s : State) : SameButDevices s s := by
  constructor <;> first | rfl | exact fun _ _ => rfl | exact id

theorem SameButDevices.trans {s t u : State} (h : SameButDevices s t) (k : SameButDevices t u) :
    SameButDevices s u := by
  constructor
  case lowMemory => exact fun a ha => (k.lowMemory a ha).trans (h.lowMemory a ha)
  case memWf => exact fun hs => k.memWf (h.memWf hs)
  all_goals first
    | exact k.params.trans h.params | exact k.gpr.trans h.gpr | exact k.hi.trans h.hi | exact k.lo.trans h.lo
    | exact k.pc.trans h.pc | exact k.npc.trans h.npc | exact k.succPc.trans h.succPc | exact k.inslot.trans h.inslot
    | exact k.ldelay.trans h.ldelay | exact k.index.trans h.index | exact k.random.trans h.random
    | exact k.entryLo.trans h.entryLo | exact k.badVAddr.trans h.badVAddr | exact k.entryHi.trans h.entryHi
    | exact k.status.trans h.status | exact k.cause.trans h.cause | exact k.epc.trans h.epc
    | exact k.tlb.trans h.tlb | exact k.tod.trans h.tod | exact k.timer.trans h.timer
    | exact k.timerPending.trans h.timerPending | exact k.ended.trans h.ended | exact k.inputs.trans h.inputs
    | exact k.draws.trans h.draws

/-- A change of the devices alone. -/
theorem SameButDevices.ofDevices (s : State) (a : Vector Disk 8) (b : Vector Tape 8) (c : Vector Printer 8)
    (d : Vector Terminal 8) : SameButDevices s { s with disks := a, tapes := b, printers := c, terminals := d } := by
  constructor <;> first | rfl | exact fun _ _ => rfl | exact id

/-- A change of RAM alone. -/
theorem SameButDevices.ofMem (s : State) (m : Memory)
    (h : ∀ a : Nat, a < 0x20000000 → m.read a = s.mem.read a) (hw : s.mem.wf = true → m.wf = true) :
    SameButDevices s { s with mem := m } := by
  constructor
  case lowMemory => exact h
  case memWf => exact hw
  all_goals rfl

/-! ### Block moves and RAM's bounds -/

theorem Memory.read_write_of_ne (m : Memory) (a b : Nat) (v : Byte) (h : b ≠ a) :
    (m.write a v).read b = m.read b := by rw [Memory.read_write, if_neg h]

/-- A block copy changes no byte below its destination. -/
theorem Memory.read_copyWords_below (moves : Nat → Bool) (src : Memory) (x y a : Nat) (h : a < y) :
    ∀ (n : Nat) (m : Memory), (Memory.copyWords moves src x y n m).read a = m.read a
  | 0, _ => rfl
  | n + 1, m => by
    have ih := Memory.read_copyWords_below moves src x y a h n m
    simp only [Memory.copyWords]
    split
    · rw [Memory.read_write_of_ne _ _ _ _ (by omega), Memory.read_write_of_ne _ _ _ _ (by omega),
        Memory.read_write_of_ne _ _ _ _ (by omega), Memory.read_write_of_ne _ _ _ _ (by omega), ih]
    · exact ih

/-- A scramble changes only bytes it may. -/
theorem Memory.read_scramble_outside (v : Nat → Byte) (inside : Nat → Bool) (base a : Nat)
    (h : inside a = false) : ∀ (n : Nat) (m : Memory), (Memory.scramble v inside base n m).read a = m.read a
  | 0, _ => rfl
  | n + 1, m => by
    have ih := Memory.read_scramble_outside v inside base a h n m
    simp only [Memory.scramble]
    split
    · rename_i hi
      rw [Memory.read_write_of_ne _ _ _ _ (fun e => by rw [← e, h] at hi; cases hi), ih]
    · exact ih

theorem scrambleRam_low (p : Params) (v : Nat → Byte) (a : Word) (m : Memory) (b : Nat) (hb : b < 0x20000000) :
    (scrambleRam p v a m).read b = m.read b :=
  Memory.read_scramble_outside _ _ _ _ (by simp; omega) _ _

theorem dmaInRam_low {p : Params} {a : Word} (h : dmaInRam p a = true) : 0x20000000 ≤ a.toNat := by
  simp only [dmaInRam, Bool.and_eq_true, decide_eq_true_eq] at h
  exact h.1.2

/-! ### One tick of each device -/

theorem State.diskMoves_frame (s : State) (d : DevNo) (b : Busy) (e : Nat) :
    SameButDevices s (s.diskMoves d b e) := by
  unfold State.diskMoves
  dsimp only
  split
  · exact .refl s
  · split
    · rename_i hd
      have := dmaInRam_low hd
      split
      · exact .ofMem s _ (fun a ha => Memory.read_copyWords_below _ _ _ _ _ (by omega) _ _)
          (Memory.wf_copyWords _ _ _ _ _)
      · split
        · exact .ofDevices s _ s.tapes s.printers s.terminals
        · exact .refl s
    · exact .refl s

theorem State.endDisk_frame (s : State) (d : DevNo) (st : Word) : SameButDevices s (s.endDisk d st) :=
  .ofDevices s _ s.tapes s.printers s.terminals

theorem scrambleRam_frame (s : State) (v : Nat → Byte) (a : Word) :
    SameButDevices s { s with mem := scrambleRam s.params v a s.mem } :=
  .ofMem s _ (fun b hb => scrambleRam_low _ _ _ _ b hb) (Memory.wf_scramble _ _ _ _)

theorem State.endDiskOp_frame (s : State) (d : DevNo) (b : Busy) (e : Nat) :
    SameButDevices s (s.endDiskOp d b e) := by
  unfold State.endDiskOp
  split
  · unfold State.endSeek
    dsimp only
    split <;> exact .ofDevices s _ s.tapes s.printers s.terminals
  · unfold State.endDiskRead
    dsimp only
    split
    · exact (scrambleRam_frame s _ _).trans (State.endDisk_frame _ _ _)
    · split
      · exact (scrambleRam_frame s _ _).trans (State.endDisk_frame _ _ _)
      · exact (State.diskMoves_frame _ _ _ _).trans (State.endDisk_frame _ _ _)
  · unfold State.endDiskWrite
    dsimp only
    split
    · exact State.endDisk_frame _ _ _
    · have h1 : ∀ v, SameButDevices s { s with disks := v } := fun v =>
        .ofDevices s v s.tapes s.printers s.terminals
      split
      · exact (h1 _).trans (State.endDisk_frame _ _ _)
      · split
        · exact (h1 _).trans (State.endDisk_frame _ _ _)
        · exact (State.diskMoves_frame _ _ _ _).trans (State.endDisk_frame _ _ _)
  · exact State.endDisk_frame _ _ _

theorem State.diskTick_frame (s : State) (d : DevNo) : SameButDevices s (s.diskTick d) := by
  unfold State.diskTick
  split
  · exact .refl s
  · dsimp only
    split
    · exact State.endDiskOp_frame _ _ _ _
    · exact (State.diskMoves_frame _ _ _ _).trans
        (.ofDevices _ _ (State.diskMoves s d _ _).tapes (State.diskMoves s d _ _).printers
          (State.diskMoves s d _ _).terminals)

theorem State.tapeMoves_frame (s : State) (d : DevNo) (b : Busy) (e : Nat) :
    SameButDevices s (s.tapeMoves d b e) := by
  unfold State.tapeMoves
  dsimp only
  split
  · exact .refl s
  · split
    · rename_i hd
      simp only [Bool.and_eq_true] at hd
      have := dmaInRam_low hd.2
      exact .ofMem s _ (fun a ha => Memory.read_copyWords_below _ _ _ _ _ (by omega) _ _)
        (Memory.wf_copyWords _ _ _ _ _)
    · exact .refl s

theorem State.endTape_frame (s : State) (d : DevNo) (st : Word) (h : Nat) : SameButDevices s (s.endTape d st h) :=
  .ofDevices s s.disks _ s.printers s.terminals

theorem State.endTapeRead_frame (s : State) (d : DevNo) (b : Busy) (e : Nat) :
    SameButDevices s (s.endTapeRead d b e) := by
  unfold State.endTapeRead
  dsimp only
  repeat' split
  · exact (scrambleRam_frame s _ _).trans (State.endTape_frame _ _ _ _)
  · exact (scrambleRam_frame s _ _).trans (State.endTape_frame _ _ _ _)
  · exact (scrambleRam_frame s _ _).trans (State.endTape_frame _ _ _ _)
  · exact (State.tapeMoves_frame _ _ _ _).trans (State.endTape_frame _ _ _ _)

theorem State.endTapeOp_frame (s : State) (d : DevNo) (b : Busy) (e : Nat) :
    SameButDevices s (s.endTapeOp d b e) := by
  unfold State.endTapeOp
  dsimp only
  repeat' split
  any_goals exact State.endTape_frame _ _ _ _
  exact State.endTapeRead_frame _ _ _ _

theorem State.tapeTick_frame (s : State) (d : DevNo) : SameButDevices s (s.tapeTick d) := by
  unfold State.tapeTick
  split
  · exact .refl s
  · dsimp only
    split
    · exact State.endTapeOp_frame _ _ _ _
    · exact (State.tapeMoves_frame _ _ _ _).trans
        (.ofDevices _ (State.tapeMoves s d _ _).disks _ (State.tapeMoves s d _ _).printers
          (State.tapeMoves s d _ _).terminals)

theorem State.devTick_frame (s : State) (d : DevNo) : SameButDevices s (s.devTick d) :=
  ((State.diskTick_frame s d).trans (State.tapeTick_frame _ d)).trans
    ((SameButDevices.ofDevices _ _ _ _ _).trans (SameButDevices.ofDevices _ _ _ _ _))

/-- Everything the controllers' steps leave. -/
theorem State.devicesTick_frame (s : State) : SameButDevices s s.devicesTick := by
  unfold State.devicesTick
  generalize allDevs = l
  induction l generalizing s with
  | nil => exact .refl s
  | cons d rest ih => exact (State.devTick_frame s d).trans (ih _)

/-! ### DATA1 (R485, R416) -/

@[simp] theorem DevReg.data1Read_none (own : Word) (r : DevReg) (h : r.data1 = none) : r.data1Read own = own := by
  rw [DevReg.data1Read, h]; rfl

@[simp] theorem DevReg.freshData1_data1 (r : DevReg) : r.freshData1.data1 = none := rfl

/-- A COMMAND store to a tape is one to any device of its operation codes, but for what DATA1 shows. -/
theorem DevReg.issueTape_but_data1 (total stamp : Nat) (v : Word) (r : DevReg) :
    ∃ x, r.issueTape total stamp v = { r.issue 4 0#32 total stamp v with data1 := x } := by
  unfold DevReg.issueTape DevReg.freshData1
  dsimp only
  split
  · exact ⟨none, rfl⟩
  · exact ⟨_, rfl⟩

/-- A busy tape ignores it (R398). -/
theorem DevReg.issueTape_busy (total stamp : Nat) (v : Word) (r : DevReg) (h : r.busy.isSome = true) :
    r.issueTape total stamp v = r := by
  have hn : r.busy.isNone = false := by cases hb : r.busy <;> simp_all
  simp [DevReg.issueTape, DevReg.issue, DevReg.resets, h, hn]

/-! ### The media over a reset (R452, R488) -/

/-- A bank of eight all of whose members have a property keeps it when one that has it comes in. -/
theorem all_setDev {α : Type} (f : α → Bool) (bank : Vector α 8) (d : DevNo) (x : α)
    (h : bank.toList.all f = true) (hx : f x = true) : (setDev bank d x).toList.all f = true := by
  rw [List.all_eq_true] at h ⊢
  intro y hy
  rw [setDev, Vector.toList_set] at hy
  rcases List.mem_or_eq_of_mem_set hy with hm | rfl
  · exact h y hm
  · exact hx

/-- Media a machine can have stay so, whatever file comes in. -/
theorem Media.change_ok (m : Media) (f : DeviceFile) (h : m.ok = true) : (m.change f).ok = true := by
  simp only [Media.ok, Bool.and_eq_true] at h ⊢
  cases f with
  | disk d image =>
    simp only [Media.change]
    split
    · rename_i hw; exact ⟨all_setDev _ _ _ _ h.1 hw, h.2⟩
    · exact h
  | tape d c =>
    cases c with
    | none => exact ⟨h.1, all_setDev _ _ _ _ h.2 rfl⟩
    | some blocks =>
      simp only [Media.change]
      split
      · rename_i hw; exact ⟨h.1, all_setDev _ _ _ _ h.2 hw⟩
      · exact h
  | printer d b => exact h
  | terminal d b => exact h

/-- The agents of a step: the controllers, then the clock tick. -/
theorem State.agents_eq (s : State) : s.agents = s.devicesTick.tick := by unfold State.agents; rfl

/-- The agents keep the configuration. -/
theorem State.agents_params (s : State) : s.agents.params = s.params := by
  rw [State.agents_eq, State.tick_params]; exact (State.devicesTick_frame s).params

theorem State.agents_inputs (s : State) : s.agents.inputs = s.inputs := by
  rw [State.agents_eq, State.tick_inputs]; exact (State.devicesTick_frame s).inputs

theorem State.agents_ended (s : State) : s.agents.ended = s.ended := by
  rw [State.agents_eq, State.tick_ended]; exact (State.devicesTick_frame s).ended

end Sys2Proof.Machine
end

