-- ==== Sys2Proof/Laws/Encoding.lean ====
section
/-! SUPPORT. The fields of the words the encoder makes, and masking a word field by field. -/

namespace Sys2Proof

/-- A field read out of a concatenation, bit by bit: the way every lemma below is proved. -/
theorem field_of_bits {n m : Nat} (w : BitVec m) (x : BitVec n) (lo : Nat)
    (h : ∀ i, i < n → w.getLsbD (lo + i) = x.getLsbD i) : w.extractLsb' lo n = x := by
  apply BitVec.eq_of_getLsbD_eq
  intro i hi
  simp [hi, h i hi]

/-! ### rWord -/

@[simp] theorem opOf_rWord (op : BitVec 6) (rs : RegIdx) (rt : RegIdx) (rd : RegIdx) (shamt : BitVec 5) (funct : BitVec 6) :
    opOf (rWord op rs rt rd shamt funct) = op :=
  field_of_bits _ _ _ fun i hi => by
    simp only [rWord, BitVec.getLsbD_append]
    (repeat' split) <;> first | omega | (congr 1; omega)

@[simp] theorem rsOf_rWord (op : BitVec 6) (rs : RegIdx) (rt : RegIdx) (rd : RegIdx) (shamt : BitVec 5) (funct : BitVec 6) :
    rsOf (rWord op rs rt rd shamt funct) = rs :=
  field_of_bits _ _ _ fun i hi => by
    simp only [rWord, BitVec.getLsbD_append]
    (repeat' split) <;> first | omega | (congr 1; omega)

@[simp] theorem rtOf_rWord (op : BitVec 6) (rs : RegIdx) (rt : RegIdx) (rd : RegIdx) (shamt : BitVec 5) (funct : BitVec 6) :
    rtOf (rWord op rs rt rd shamt funct) = rt :=
  field_of_bits _ _ _ fun i hi => by
    simp only [rWord, BitVec.getLsbD_append]
    (repeat' split) <;> first | omega | (congr 1; omega)

@[simp] theorem rdOf_rWord (op : BitVec 6) (rs : RegIdx) (rt : RegIdx) (rd : RegIdx) (shamt : BitVec 5) (funct : BitVec 6) :
    rdOf (rWord op rs rt rd shamt funct) = rd :=
  field_of_bits _ _ _ fun i hi => by
    simp only [rWord, BitVec.getLsbD_append]
    (repeat' split) <;> first | omega | (congr 1; omega)

@[simp] theorem shamtOf_rWord (op : BitVec 6) (rs : RegIdx) (rt : RegIdx) (rd : RegIdx) (shamt : BitVec 5) (funct : BitVec 6) :
    shamtOf (rWord op rs rt rd shamt funct) = shamt :=
  field_of_bits _ _ _ fun i hi => by
    simp only [rWord, BitVec.getLsbD_append]
    (repeat' split) <;> first | omega | (congr 1; omega)

@[simp] theorem functOf_rWord (op : BitVec 6) (rs : RegIdx) (rt : RegIdx) (rd : RegIdx) (shamt : BitVec 5) (funct : BitVec 6) :
    functOf (rWord op rs rt rd shamt funct) = funct :=
  field_of_bits _ _ _ fun i hi => by
    simp only [rWord, BitVec.getLsbD_append]
    (repeat' split) <;> first | omega | (congr 1; omega)

/-! ### iWord -/

@[simp] theorem opOf_iWord (op : BitVec 6) (rs : RegIdx) (rt : RegIdx) (imm : BitVec 16) :
    opOf (iWord op rs rt imm) = op :=
  field_of_bits _ _ _ fun i hi => by
    simp only [iWord, BitVec.getLsbD_append]
    (repeat' split) <;> first | omega | (congr 1; omega)

@[simp] theorem rsOf_iWord (op : BitVec 6) (rs : RegIdx) (rt : RegIdx) (imm : BitVec 16) :
    rsOf (iWord op rs rt imm) = rs :=
  field_of_bits _ _ _ fun i hi => by
    simp only [iWord, BitVec.getLsbD_append]
    (repeat' split) <;> first | omega | (congr 1; omega)

@[simp] theorem rtOf_iWord (op : BitVec 6) (rs : RegIdx) (rt : RegIdx) (imm : BitVec 16) :
    rtOf (iWord op rs rt imm) = rt :=
  field_of_bits _ _ _ fun i hi => by
    simp only [iWord, BitVec.getLsbD_append]
    (repeat' split) <;> first | omega | (congr 1; omega)

@[simp] theorem immOf_iWord (op : BitVec 6) (rs : RegIdx) (rt : RegIdx) (imm : BitVec 16) :
    immOf (iWord op rs rt imm) = imm :=
  field_of_bits _ _ _ fun i hi => by
    simp only [iWord, BitVec.getLsbD_append]
    (repeat' split) <;> first | omega | (congr 1; omega)

/-! ### jWord -/

@[simp] theorem opOf_jWord (op : BitVec 6) (target : BitVec 26) :
    opOf (jWord op target) = op :=
  field_of_bits _ _ _ fun i hi => by
    simp only [jWord, BitVec.getLsbD_append]
    (repeat' split) <;> first | omega | (congr 1; omega)

@[simp] theorem targetOf_jWord (op : BitVec 6) (target : BitVec 26) :
    targetOf (jWord op target) = target :=
  field_of_bits _ _ _ fun i hi => by
    simp only [jWord, BitVec.getLsbD_append]
    (repeat' split) <;> first | omega | (congr 1; omega)

/-! ### codeWord -/

@[simp] theorem codeOf_codeWord (code : BitVec 20) (funct : BitVec 6) :
    codeOf (codeWord code funct) = code :=
  field_of_bits _ _ _ fun i hi => by
    simp only [codeWord, BitVec.getLsbD_append]
    (repeat' split) <;> first | omega | (congr 1; omega)

@[simp] theorem functOf_codeWord (code : BitVec 20) (funct : BitVec 6) :
    functOf (codeWord code funct) = funct :=
  field_of_bits _ _ _ fun i hi => by
    simp only [codeWord, BitVec.getLsbD_append]
    (repeat' split) <;> first | omega | (congr 1; omega)

@[simp] theorem opOf_codeWord (code : BitVec 20) (funct : BitVec 6) : opOf (codeWord code funct) = 0#6 :=
  field_of_bits _ _ _ fun i hi => by
    simp only [codeWord, BitVec.getLsbD_append]
    (repeat' split) <;> first | omega | (congr 1; omega)

/-! ### Bits of a coprocessor 0 word (R146) -/

theorem getLsbD_25_rWord (op : BitVec 6) (rs rt rd : RegIdx) (shamt : BitVec 5) (funct : BitVec 6) :
    (rWord op rs rt rd shamt funct).getLsbD 25 = rs.getLsbD 4 := by
  simp only [rWord, BitVec.getLsbD_append]; rfl

theorem low11_rWord (op : BitVec 6) (rs rt rd : RegIdx) (shamt : BitVec 5) (funct : BitVec 6) :
    (rWord op rs rt rd shamt funct).extractLsb' 0 11 = shamt ++ funct :=
  field_of_bits _ _ _ fun i hi => by
    simp only [rWord, BitVec.getLsbD_append]
    (repeat' split) <;> first | omega | (congr 1; omega)

theorem low_of_0x10 : ∀ j : Nat, j < 4 → (0x10#5).getLsbD j = false := by decide

theorem bits_24_6_cop0Word (funct : BitVec 6) : (cop0Word funct).extractLsb' 6 19 = 0#19 :=
  field_of_bits _ _ _ fun i hi => by
    simp only [cop0Word, rWord, BitVec.getLsbD_append, BitVec.getLsbD_zero]
    (repeat' split) <;> first | omega | rfl | exact low_of_0x10 _ (by omega)

/-! ### A word of its fields -/

/-- Two neighbouring fields of a word joined. -/
theorem append_fields (w : Word) (lo n m : Nat) :
    w.extractLsb' (lo + n) m ++ w.extractLsb' lo n = w.extractLsb' lo (m + n) := by
  apply BitVec.eq_of_getLsbD_eq
  intro i hi
  simp only [BitVec.getLsbD_append, BitVec.getLsbD_extractLsb']
  by_cases h : i < n
  · simp [h, hi]
  · simp [h, hi, show i - n < m by omega, show lo + n + (i - n) = lo + i by omega]

theorem whole_word (w : Word) : w.extractLsb' 0 32 = w := by
  apply BitVec.eq_of_getLsbD_eq
  intro i hi
  simp [hi]

theorem rWord_fields (w : Word) : rWord (opOf w) (rsOf w) (rtOf w) (rdOf w) (shamtOf w) (functOf w) = w := by
  unfold rWord opOf rsOf rtOf rdOf shamtOf functOf
  exact ((congrArg (· ++ _ ++ _ ++ _ ++ _) (append_fields w 21 5 6)).trans
    ((congrArg (· ++ _ ++ _ ++ _) (append_fields w 16 5 11)).trans
    ((congrArg (· ++ _ ++ _) (append_fields w 11 5 16)).trans
    ((congrArg (· ++ _) (append_fields w 6 5 21)).trans
    ((append_fields w 0 6 26).trans (whole_word w))))))

theorem iWord_fields (w : Word) : iWord (opOf w) (rsOf w) (rtOf w) (immOf w) = w := by
  unfold iWord opOf rsOf rtOf immOf
  exact ((congrArg (· ++ _ ++ _) (append_fields w 21 5 6)).trans
    ((congrArg (· ++ _) (append_fields w 16 5 11)).trans
    ((append_fields w 0 16 16).trans (whole_word w))))

theorem jWord_fields (w : Word) : jWord (opOf w) (targetOf w) = w := by
  unfold jWord opOf targetOf
  exact (append_fields w 0 26 6).trans (whole_word w)

theorem codeWord_fields (w : Word) (h : opOf w = 0#6) : codeWord (codeOf w) (functOf w) = w := by
  unfold codeWord
  rw [← h]
  unfold opOf codeOf functOf
  exact ((congrArg (· ++ _) (append_fields w 6 20 6)).trans ((append_fields w 0 6 26).trans (whole_word w)))

/-! ### Masking field by field -/

theorem append_and_append {n m : Nat} (a a' : BitVec n) (b b' : BitVec m) :
    (a ++ b) &&& (a' ++ b') = (a &&& a') ++ (b &&& b') := by
  apply BitVec.eq_of_getLsbD_eq
  intro i hi
  simp only [BitVec.getLsbD_and, BitVec.getLsbD_append]
  split <;> rfl

theorem rWord_and (o a b c d f o' a' b' c' d' f') :
    rWord o a b c d f &&& rWord o' a' b' c' d' f' =
      rWord (o &&& o') (a &&& a') (b &&& b') (c &&& c') (d &&& d') (f &&& f') := by
  unfold rWord
  exact (append_and_append (n := 26) (m := 6) _ _ _ _).trans (congrArg (· ++ _) ((append_and_append (n := 21) (m := 5) _ _ _ _).trans (congrArg (· ++ _) ((append_and_append (n := 16) (m := 5) _ _ _ _).trans (congrArg (· ++ _) ((append_and_append (n := 11) (m := 5) _ _ _ _).trans (congrArg (· ++ _) (append_and_append (n := 6) (m := 5) _ _ _ _))))))))

theorem iWord_and (o a b i o' a' b' i') :
    iWord o a b i &&& iWord o' a' b' i' = iWord (o &&& o') (a &&& a') (b &&& b') (i &&& i') := by
  unfold iWord
  exact (append_and_append (n := 16) (m := 16) _ _ _ _).trans (congrArg (· ++ _) ((append_and_append (n := 11) (m := 5) _ _ _ _).trans (congrArg (· ++ _) (append_and_append (n := 6) (m := 5) _ _ _ _))))

theorem jWord_and (o t o' t') : jWord o t &&& jWord o' t' = jWord (o &&& o') (t &&& t') := by
  unfold jWord
  exact append_and_append (n := 6) (m := 26) _ _ _ _

theorem codeWord_and (c f c' f') : codeWord c f &&& codeWord c' f' = codeWord (c &&& c') (f &&& f') := by
  unfold codeWord
  exact (append_and_append (n := 26) (m := 6) _ _ _ _).trans (congrArg (· ++ _) (append_and_append (n := 6) (m := 20) _ _ _ _))

theorem codeWord_and_mask (c : BitVec 20) (f : BitVec 6) :
    codeWord c f &&& rWord 0x3F#6 0#5 0#5 0#5 0#5 0x3F#6 = codeWord 0#20 (f &&& 0x3F#6) := by
  have h : rWord 0x3F#6 0#5 0#5 0#5 0#5 0x3F#6 = (0x3F#6 ++ 0#20 ++ 0x3F#6 : Word) := by decide
  rw [h]
  unfold codeWord
  exact (append_and_append (n := 26) (m := 6) _ _ _ _).trans (congrArg (· ++ _)
    ((append_and_append (n := 6) (m := 20) _ _ _ _).trans (congrArg (_ ++ ·) BitVec.and_zero)))

theorem and_zero5 (x : BitVec 5) : x &&& 0x0#5 = 0#5 := BitVec.and_zero
theorem and_zero6 (x : BitVec 6) : x &&& 0x0#6 = 0#6 := BitVec.and_zero
theorem and_zero16 (x : BitVec 16) : x &&& 0x0#16 = 0#16 := BitVec.and_zero
theorem and_zero26 (x : BitVec 26) : x &&& 0x0#26 = 0#26 := BitVec.and_zero
theorem and_ones5 (x : BitVec 5) : x &&& 0x1F#5 = x := BitVec.and_allOnes
theorem and_ones6 (x : BitVec 6) : x &&& 0x3F#6 = x := BitVec.and_allOnes

end Sys2Proof
end

