-- ==== Sys2Proof/Laws/Libumps.lean ====
section
/-! SUPPORT. STST said once: what its instructions leave in memory (R331). -/

namespace Sys2Proof.Machine

/-- What the body of STST, before its return, keeps of the state it was called in. -/
structure InStst (s t : State) : Prop where
  params : t.params = s.params
  status : t.status = s.status
  entryHi : t.entryHi = s.entryHi
  causeRead : t.causeRead = s.causeRead
  hi : t.hi = s.hi
  lo : t.lo = s.lo
  ldelay : t.ldelay = none
  regs : ∀ r : RegIdx, r ≠ 2#5 → t.reg r = s.reg r

theorem InStst.refl {s : State} (h : s.ldelay = none) : InStst s s :=
  ⟨rfl, rfl, rfl, rfl, rfl, rfl, h, fun _ _ => rfl⟩

theorem runAll_append (xs ys : List Instr) : ∀ {s t : State}, runAll xs s = .next t →
    runAll (xs ++ ys) s = runAll ys t := by
  induction xs with
  | nil => intro s t h; cases h; rfl
  | cons i rest ih =>
    intro s t h
    simp only [runAll, List.cons_append] at h ⊢
    split at h
    · exact ih h
    · rename_i hn; exact absurd h (hn t)

/-- `mfc0 $2, rd` and the slot after it. -/
theorem InStst.fetchCp0 {s t : State} (h : InStst s t) (hu : s.cop0Usable = true) {rd : RegIdx} {v : Word}
    (hv : t.cp0Read rd = some v) :
    ∃ u, runAll [.mfc0 2#5 rd, nopInstr] t = .next u ∧ InStst s u ∧ u.reg 2#5 = v ∧ u.mem = t.mem := by
  have hu' : t.cop0Usable = true := by
    unfold State.cop0Usable State.userMode State.cu0 at hu ⊢; rw [h.status]; exact hu
  refine ⟨((t.retire { load := some (2#5, v) }).retire { write := some (0#5, (t.retire { load := some (2#5, v) }).rt 0#5 <<< (0#5).toNat) }), ?_, ?_, ?_, rfl⟩
  · simp only [runAll, exec, execMfc0, ifCop0Usable, hu', if_true, hv, nopInstr, execSll, finish]
  · refine ⟨h.params, h.status, h.entryHi, h.causeRead, h.hi, h.lo, rfl, fun r hr => ?_⟩
    simp only [State.reg_eq, State.retire_gpr, State.retire_ldelay, h.ldelay, landing, newDelay, writeOpt, regOf_setReg]
    by_cases h0 : r = 0#5
    · subst h0; rfl
    · rw [if_neg h0, if_neg (by decide : ¬ (2#5 : RegIdx) = 0#5)]
      simp only [regOf_setReg, if_neg hr]
      exact h.regs r hr
  · simp only [State.reg_eq, State.retire_gpr, State.retire_ldelay, h.ldelay, landing, newDelay, writeOpt, regOf_setReg]
    simp [regOf_setReg]

/-- `mfhi $2` or `mflo $2`. -/
theorem InStst.fetchHiLo {s t : State} (h : InStst s t) (v : Word) :
    ∃ u, finish t 2#5 v = .next u ∧ InStst s u ∧ u.reg 2#5 = v ∧ u.mem = t.mem := by
  refine ⟨t.retire { write := some (2#5, v) }, rfl, ?_, ?_, rfl⟩
  · refine ⟨h.params, h.status, h.entryHi, h.causeRead, h.hi, h.lo, rfl, fun r hr => ?_⟩
    simp only [State.reg_eq, State.retire_gpr, h.ldelay, landing, writeOpt, regOf_setReg, if_neg hr]
    exact h.regs r hr
  · simp [State.reg_eq, h.ldelay, landing, writeOpt, regOf_setReg]

/-- The addresses STST can store its words to: in RAM, and reached without translation (R331). -/
structure StstTarget (s : State) (a : Nat) : Prop where
  userMode : s.userMode = false
  vmOn : s.vmOn = false
  rom : s.params.romSize ≤ 0x10000000
  boot : s.params.bootTop ≤ 0x20000000
  aligned : a % 4 = 0
  low : 0x20000000 ≤ a
  high : a + 140 ≤ s.params.ramTop
  bits : s.params.ramTop ≤ 2 ^ 32
  base : (s.reg 4#5).toNat = a

/-- One store of STST. -/
theorem InStst.store {s t : State} (h : InStst s t) {a : Nat} (ha : StstTarget s a) (r : RegIdx) (i : Nat) (hi : i < 35) :
    ∃ u, exec (storeStateWord r i) t = .next u ∧ InStst s u ∧ u.reg 2#5 = t.reg 2#5
      ∧ u.mem = t.mem.writeWord s.params.bigEndian (a + 4 * i) (t.reg r) := by
  have nd : ∀ q, t.delayed q = false := fun q => by simp [State.delayed, h.ldelay]
  have hb : t.reg 4#5 = s.reg 4#5 := h.regs _ (by decide)
  have he : t.effAddr 4#5 (BitVec.ofNat 16 (4 * i)) = BitVec.ofNat 32 (a + 4 * i) := by
    unfold State.effAddr State.rs
    rw [State.operand_of_not_delayed _ _ _ (nd _), hb]
    have hx : sext16 (BitVec.ofNat 16 (4 * i)) = BitVec.ofNat 32 (4 * i) := by
      have : ∀ j, j < 35 → sext16 (BitVec.ofNat 16 (4 * j)) = BitVec.ofNat 32 (4 * j) := by decide
      exact this i hi
    rw [hx]
    apply BitVec.eq_of_toNat_eq
    simp [BitVec.toNat_add, ha.base]
  have hlt : a + 4 * i < 2 ^ 32 := by have := ha.high; have := ha.bits; omega
  have hn : (BitVec.ofNat 32 (a + 4 * i)).toNat = a + 4 * i := by
    rw [BitVec.toNat_ofNat]; exact Nat.mod_eq_of_lt hlt
  have hm : misaligned .word (BitVec.ofNat 32 (a + 4 * i)) = false := by
    have := ha.aligned
    have : (BitVec.ofNat 32 (a + 4 * i)).extractLsb' 0 2 = 0#2 := by
      apply BitVec.eq_of_toNat_eq; simp [BitVec.extractLsb'_toNat]; omega
    simp [misaligned, this]
  have hr : t.resolve .store (BitVec.ofNat 32 (a + 4 * i)) = .ok (BitVec.ofNat 32 (a + 4 * i)) :=
    State.resolve_physical _ _ _ (by unfold State.userMode; rw [h.status]; exact ha.userMode)
      (.inl (by unfold State.vmOn; rw [h.status]; exact ha.vmOn))
  have hg : regionOf t.params (BitVec.ofNat 32 (a + 4 * i)) 4 = .ram := by
    rw [h.params]
    have h1 := ha.rom; have h2 := ha.low; have h3 := ha.high; have h4 := ha.boot
    unfold regionOf
    simp only [hn, devTop]
    rw [if_neg (by omega), if_neg (by simp; omega), if_neg, if_pos (by simp; omega)]
    simp; omega
  refine ⟨({ t with mem := t.mem.writeWord t.params.bigEndian (a + 4 * i) (t.reg r) } : State).retire {}, ?_, ?_, ?_, ?_⟩
  · simp only [exec, storeStateWord, execSw, he, State.memWrite, hm, hr, State.physWrite, Width.bytes, hg, finishStore,
      Memory.store, hn, Bool.false_eq_true, if_false]
    unfold State.rt
    rw [State.operand_of_not_delayed _ _ _ (nd _)]
  · refine ⟨h.params, h.status, h.entryHi, h.causeRead, h.hi, h.lo, rfl, fun q hq => ?_⟩
    simp only [State.reg_eq, State.retire_gpr, h.ldelay, landing, writeOpt]
    exact h.regs q hq
  · simp only [State.reg_eq, State.retire_gpr, h.ldelay, landing, writeOpt]
  · simp only [State.retire_mem, h.params]

/-- A run of stores, from word `i` on. -/
theorem InStst.stores {s : State} {a : Nat} (ha : StstTarget s a) : ∀ (rs : List RegIdx) (i : Nat) {t : State},
    InStst s t → i + rs.length ≤ 35 →
    ∃ u, runAll ((rs.zipIdx i).map fun p => storeStateWord p.1 p.2) t = .next u ∧ InStst s u ∧ u.reg 2#5 = t.reg 2#5
      ∧ u.mem = storeWords s.params.bigEndian (rs.map t.reg) (a + 4 * i) t.mem
  | [], _, t, h, _ => ⟨t, rfl, h, rfl, rfl⟩
  | r :: rest, i, t, h, hl => by
    simp only [List.length_cons] at hl
    obtain ⟨u, hu, hs, h2, hm⟩ := h.store ha r i (by omega)
    obtain ⟨w, hw, hs', h2', hm'⟩ := InStst.stores ha rest (i + 1) hs (by omega)
    refine ⟨w, ?_, hs', h2'.trans h2, ?_⟩
    · simp only [List.zipIdx_cons, List.map_cons, runAll, hu]; exact hw
    · have hr : rest.map u.reg = rest.map t.reg := List.map_congr_left fun q _ => by
        by_cases hq : q = 2#5
        · subst hq; exact h2
        · rw [hs.regs q hq, h.regs q hq]
      rw [hm', hm, hr, List.map_cons, storeWords, show a + 4 * (i + 1) = a + 4 * i + 4 by omega]

theorem storeWords_append (be : Bool) : ∀ (xs ys : List Word) (a : Nat) (m : Memory),
    storeWords be (xs ++ ys) a m = storeWords be ys (a + 4 * xs.length) (storeWords be xs a m)
  | [], _, _, _ => rfl
  | x :: xs, ys, a, m => by
    simp only [List.cons_append, storeWords, List.length_cons]
    rw [storeWords_append be xs ys, show a + 4 + 4 * xs.length = a + 4 * (xs.length + 1) by omega]

/-- The registers STST stores, in the order of their words. -/
def ststRegs : List RegIdx :=
  [0#5, 1#5, 2#5, 3#5, 4#5, 5#5, 6#5, 7#5, 8#5, 9#5, 10#5, 11#5, 12#5, 13#5, 14#5, 15#5, 16#5, 17#5, 18#5, 19#5, 20#5,
    21#5, 22#5, 23#5, 24#5, 25#5, 28#5, 29#5, 30#5, 31#5]

/-- STST as its groups: three CP0 registers, 0 and the general registers, HI, LO, the return. -/
theorem ststCode_eq : ststCode =
    ([.mfc0 2#5 10#5, nopInstr] ++ ([2#5].zipIdx 0).map fun p => storeStateWord p.1 p.2)
      ++ ([.mfc0 2#5 13#5, nopInstr] ++ ([2#5].zipIdx 1).map fun p => storeStateWord p.1 p.2)
      ++ ([.mfc0 2#5 12#5, nopInstr] ++ ([2#5].zipIdx 2).map fun p => storeStateWord p.1 p.2)
      ++ ((ststRegs.zipIdx 3).map fun p => storeStateWord p.1 p.2)
      ++ ([.mfhi 2#5] ++ ([2#5].zipIdx 33).map fun p => storeStateWord p.1 p.2)
      ++ ([.mflo 2#5] ++ ([2#5].zipIdx 34).map fun p => storeStateWord p.1 p.2)
      ++ [.jr 31#5, nopInstr] := by decide

/-- One value of $v0 stored after the instructions that put it there. -/
theorem InStst.storeValue {s t u : State} {a : Nat} (ha : StstTarget s a) (is : List Instr) (v : Word) (i : Nat)
    (hi : i < 35) (hr : runAll is t = .next u) (h : InStst s u) (h2 : u.reg 2#5 = v) (hm : u.mem = t.mem) :
    ∃ w, runAll (is ++ ([2#5].zipIdx i).map fun p => storeStateWord p.1 p.2) t = .next w ∧ InStst s w
      ∧ w.reg 2#5 = v ∧ w.mem = storeWords s.params.bigEndian [v] (a + 4 * i) t.mem := by
  obtain ⟨w, hw, hs, hv, hmem⟩ := InStst.stores ha [2#5] i h (by simpa using hi)
  refine ⟨w, ?_, hs, hv.trans h2, ?_⟩
  · rw [runAll_append _ _ hr]; exact hw
  · rw [hmem, hm, List.map_singleton, h2]

/-- STST up to its return, called in a mode that may use coprocessor 0, with `statep` a physical address in RAM: the
35 words there are `ststWords`, and no other byte of memory has changed (R331). -/
theorem stst_stores (s : State) (a : Nat) (hl : s.ldelay = none) (ha : StstTarget s a) (hu : s.cop0Usable = true) :
    ∃ t, runAll ststCode s = runAll [.jr 31#5, nopInstr] t ∧ InStst s t
      ∧ t.mem = storeWords s.params.bigEndian s.ststWords a s.mem := by
  obtain ⟨u1, r1, h1, v1, m1⟩ := (InStst.refl hl).fetchCp0 hu (rd := 10#5) (v := s.entryHi) rfl
  obtain ⟨w1, e1, h1, -, m1⟩ := InStst.storeValue ha _ _ 0 (by omega) r1 h1 v1 m1
  obtain ⟨u2, r2, h2, v2, m2⟩ := h1.fetchCp0 hu (rd := 13#5) (v := s.causeRead) (by simp [State.cp0Read, h1.causeRead])
  obtain ⟨w2, e2, h2, -, m2⟩ := InStst.storeValue ha _ _ 1 (by omega) r2 h2 v2 m2
  obtain ⟨u3, r3, h3, v3, m3⟩ := h2.fetchCp0 hu (rd := 12#5) (v := s.status) (by simp [State.cp0Read, h2.status])
  obtain ⟨w3, e3, h3, v3, m3⟩ := InStst.storeValue ha _ _ 2 (by omega) r3 h3 v3 m3
  obtain ⟨w4, e4, h4, -, m4⟩ := InStst.stores ha ststRegs 3 h3 (by decide)
  obtain ⟨u5, r5, h5, v5, m5⟩ := h4.fetchHiLo w4.hi
  obtain ⟨w5, e5, h5, -, m5⟩ := InStst.storeValue ha [.mfhi 2#5] _ 33 (by omega)
    (by simp only [runAll, exec, execMfhi, r5]) h5 v5 m5
  obtain ⟨u6, r6, h6, v6, m6⟩ := h5.fetchHiLo w5.lo
  obtain ⟨w6, e6, h6, -, m6⟩ := InStst.storeValue ha [.mflo 2#5] _ 34 (by omega)
    (by simp only [runAll, exec, execMflo, r6]) h6 v6 m6
  refine ⟨w6, ?_, h6, ?_⟩
  · simp only [ststCode_eq, List.append_assoc]
    rw [← List.append_assoc, runAll_append _ _ e1, ← List.append_assoc, runAll_append _ _ e2, ← List.append_assoc,
      runAll_append _ _ e3, runAll_append _ _ e4, ← List.append_assoc, runAll_append _ _ e5, ← List.append_assoc,
      runAll_append _ _ e6]
  · have hw : s.ststWords = [s.entryHi] ++ ([s.causeRead] ++ ([s.status] ++ (ststRegs.map w3.reg
        ++ ([w4.hi] ++ [w5.lo])))) := by
      have hr : ∀ r : RegIdx, r ≠ 2#5 → w3.reg r = s.reg r := h3.regs
      simp [State.ststWords, ststRegs, v3, hr, h4.hi, h5.lo]
    rw [hw, m6, m5, m4, m3, m2, m1]
    simp only [storeWords_append, List.length_singleton, List.length_map]
    simp [ststRegs, Nat.add_assoc]

end Sys2Proof.Machine
end

