-- ==== Sys2Proof/Laws/PerInstr.lean ====
section
/-! SUPPORT. The statement made per instruction: the encoder agrees with the row of spec/opcode_table.json. -/

namespace Sys2Proof.Laws

/-- The `mask` of an instruction's row, as spec/opcode_table.json prints it (R153). -/
def rowMask : Instr → Word
  | .add _ _ _ => 0xFC0007FF#32
  | .addu _ _ _ => 0xFC0007FF#32
  | .sub _ _ _ => 0xFC0007FF#32
  | .subu _ _ _ => 0xFC0007FF#32
  | .addi _ _ _ => 0xFC000000#32
  | .addiu _ _ _ => 0xFC000000#32
  | .and _ _ _ => 0xFC0007FF#32
  | .or _ _ _ => 0xFC0007FF#32
  | .xor _ _ _ => 0xFC0007FF#32
  | .nor _ _ _ => 0xFC0007FF#32
  | .andi _ _ _ => 0xFC000000#32
  | .ori _ _ _ => 0xFC000000#32
  | .xori _ _ _ => 0xFC000000#32
  | .lui _ _ => 0xFFE00000#32
  | .slt _ _ _ => 0xFC0007FF#32
  | .sltu _ _ _ => 0xFC0007FF#32
  | .slti _ _ _ => 0xFC000000#32
  | .sltiu _ _ _ => 0xFC000000#32
  | .sll _ _ _ => 0xFFE0003F#32
  | .srl _ _ _ => 0xFFE0003F#32
  | .sra _ _ _ => 0xFFE0003F#32
  | .sllv _ _ _ => 0xFC0007FF#32
  | .srlv _ _ _ => 0xFC0007FF#32
  | .srav _ _ _ => 0xFC0007FF#32
  | .mult _ _ => 0xFC00FFFF#32
  | .multu _ _ => 0xFC00FFFF#32
  | .div _ _ => 0xFC00FFFF#32
  | .divu _ _ => 0xFC00FFFF#32
  | .mfhi _ => 0xFFFF07FF#32
  | .mthi _ => 0xFC1FFFFF#32
  | .mflo _ => 0xFFFF07FF#32
  | .mtlo _ => 0xFC1FFFFF#32
  | .lb _ _ _ => 0xFC000000#32
  | .lbu _ _ _ => 0xFC000000#32
  | .lh _ _ _ => 0xFC000000#32
  | .lhu _ _ _ => 0xFC000000#32
  | .lw _ _ _ => 0xFC000000#32
  | .sb _ _ _ => 0xFC000000#32
  | .sh _ _ _ => 0xFC000000#32
  | .lwl _ _ _ => 0xFC000000#32
  | .lwr _ _ _ => 0xFC000000#32
  | .swl _ _ _ => 0xFC000000#32
  | .swr _ _ _ => 0xFC000000#32
  | .sw _ _ _ => 0xFC000000#32
  | .j _ => 0xFC000000#32
  | .jal _ => 0xFC000000#32
  | .jr _ => 0xFC1FFFFF#32
  | .jalr _ _ => 0xFC1F07FF#32
  | .beq _ _ _ => 0xFC000000#32
  | .bne _ _ _ => 0xFC000000#32
  | .blez _ _ => 0xFC1F0000#32
  | .bgtz _ _ => 0xFC1F0000#32
  | .bltz _ _ => 0xFC1F0000#32
  | .bgez _ _ => 0xFC1F0000#32
  | .bltzal _ _ => 0xFC1F0000#32
  | .bgezal _ _ => 0xFC1F0000#32
  | .syscall _ => 0xFC00003F#32
  | .brk _ => 0xFC00003F#32
  | .mfc0 _ _ => 0xFFE007FF#32
  | .mtc0 _ _ => 0xFFE007FF#32
  | .tlbwi => 0xFFFFFFFF#32
  | .tlbwr => 0xFFFFFFFF#32
  | .tlbr => 0xFFFFFFFF#32
  | .tlbclr => 0xFFFFFFC0#32
  | .tlbp => 0xFFFFFFFF#32
  | .rfe => 0xFFFFFFFF#32
  | .cop1 _ => 0xFC000000#32
  | .cop2 _ => 0xFC000000#32
  | .cop3 _ => 0xFC000000#32
  | .lwc1 _ => 0xFC000000#32
  | .lwc2 _ => 0xFC000000#32
  | .lwc3 _ => 0xFC000000#32
  | .swc1 _ => 0xFC000000#32
  | .swc2 _ => 0xFC000000#32
  | .swc3 _ => 0xFC000000#32

/-- The `match` of an instruction's row, as spec/opcode_table.json prints it (R153). -/
def rowMatch : Instr → Word
  | .add _ _ _ => 0x00000020#32
  | .addu _ _ _ => 0x00000021#32
  | .sub _ _ _ => 0x00000022#32
  | .subu _ _ _ => 0x00000023#32
  | .addi _ _ _ => 0x20000000#32
  | .addiu _ _ _ => 0x24000000#32
  | .and _ _ _ => 0x00000024#32
  | .or _ _ _ => 0x00000025#32
  | .xor _ _ _ => 0x00000026#32
  | .nor _ _ _ => 0x00000027#32
  | .andi _ _ _ => 0x30000000#32
  | .ori _ _ _ => 0x34000000#32
  | .xori _ _ _ => 0x38000000#32
  | .lui _ _ => 0x3C000000#32
  | .slt _ _ _ => 0x0000002A#32
  | .sltu _ _ _ => 0x0000002B#32
  | .slti _ _ _ => 0x28000000#32
  | .sltiu _ _ _ => 0x2C000000#32
  | .sll _ _ _ => 0x00000000#32
  | .srl _ _ _ => 0x00000002#32
  | .sra _ _ _ => 0x00000003#32
  | .sllv _ _ _ => 0x00000004#32
  | .srlv _ _ _ => 0x00000006#32
  | .srav _ _ _ => 0x00000007#32
  | .mult _ _ => 0x00000018#32
  | .multu _ _ => 0x00000019#32
  | .div _ _ => 0x0000001A#32
  | .divu _ _ => 0x0000001B#32
  | .mfhi _ => 0x00000010#32
  | .mthi _ => 0x00000011#32
  | .mflo _ => 0x00000012#32
  | .mtlo _ => 0x00000013#32
  | .lb _ _ _ => 0x80000000#32
  | .lbu _ _ _ => 0x90000000#32
  | .lh _ _ _ => 0x84000000#32
  | .lhu _ _ _ => 0x94000000#32
  | .lw _ _ _ => 0x8C000000#32
  | .sb _ _ _ => 0xA0000000#32
  | .sh _ _ _ => 0xA4000000#32
  | .lwl _ _ _ => 0x88000000#32
  | .lwr _ _ _ => 0x98000000#32
  | .swl _ _ _ => 0xA8000000#32
  | .swr _ _ _ => 0xB8000000#32
  | .sw _ _ _ => 0xAC000000#32
  | .j _ => 0x08000000#32
  | .jal _ => 0x0C000000#32
  | .jr _ => 0x00000008#32
  | .jalr _ _ => 0x00000009#32
  | .beq _ _ _ => 0x10000000#32
  | .bne _ _ _ => 0x14000000#32
  | .blez _ _ => 0x18000000#32
  | .bgtz _ _ => 0x1C000000#32
  | .bltz _ _ => 0x04000000#32
  | .bgez _ _ => 0x04010000#32
  | .bltzal _ _ => 0x04100000#32
  | .bgezal _ _ => 0x04110000#32
  | .syscall _ => 0x0000000C#32
  | .brk _ => 0x0000000D#32
  | .mfc0 _ _ => 0x40000000#32
  | .mtc0 _ _ => 0x40800000#32
  | .tlbwi => 0x42000002#32
  | .tlbwr => 0x42000006#32
  | .tlbr => 0x42000001#32
  | .tlbclr => 0x42000000#32
  | .tlbp => 0x42000008#32
  | .rfe => 0x42000010#32
  | .cop1 _ => 0x44000000#32
  | .cop2 _ => 0x48000000#32
  | .cop3 _ => 0x4C000000#32
  | .lwc1 _ => 0xC4000000#32
  | .lwc2 _ => 0xC8000000#32
  | .lwc3 _ => 0xCC000000#32
  | .swc1 _ => 0xE4000000#32
  | .swc2 _ => 0xE8000000#32
  | .swc3 _ => 0xEC000000#32

/-- The encoder's word of an instruction has every bit of its row's `match` that the row's `mask` covers. -/
def TableRow.Statement (i : Instr) : Prop := ∀ tc : BitVec 6, encode tc i &&& rowMask i = rowMatch i

theorem TableRow.add (rd rs rt : RegIdx) : TableRow.Statement (.add rd rs rt) := by
  intro tc
  show rWord 0x00#6 rs rt rd 0#5 0x20#6 &&& rWord 0x3F#6 0x0#5 0x0#5 0x0#5 0x1F#5 0x3F#6 = 0x00000020#32
  simp only [rWord_and, and_zero5, and_ones5, and_ones6]
  decide

theorem TableRow.addu (rd rs rt : RegIdx) : TableRow.Statement (.addu rd rs rt) := by
  intro tc
  show rWord 0x00#6 rs rt rd 0#5 0x21#6 &&& rWord 0x3F#6 0x0#5 0x0#5 0x0#5 0x1F#5 0x3F#6 = 0x00000021#32
  simp only [rWord_and, and_zero5, and_ones5, and_ones6]
  decide

theorem TableRow.sub (rd rs rt : RegIdx) : TableRow.Statement (.sub rd rs rt) := by
  intro tc
  show rWord 0x00#6 rs rt rd 0#5 0x22#6 &&& rWord 0x3F#6 0x0#5 0x0#5 0x0#5 0x1F#5 0x3F#6 = 0x00000022#32
  simp only [rWord_and, and_zero5, and_ones5, and_ones6]
  decide

theorem TableRow.subu (rd rs rt : RegIdx) : TableRow.Statement (.subu rd rs rt) := by
  intro tc
  show rWord 0x00#6 rs rt rd 0#5 0x23#6 &&& rWord 0x3F#6 0x0#5 0x0#5 0x0#5 0x1F#5 0x3F#6 = 0x00000023#32
  simp only [rWord_and, and_zero5, and_ones5, and_ones6]
  decide

theorem TableRow.addi (rt rs : RegIdx) (imm : BitVec 16) : TableRow.Statement (.addi rt rs imm) := by
  intro tc
  show iWord 0x08#6 rs rt imm &&& iWord 0x3F#6 0x0#5 0x0#5 0x0#16 = 0x20000000#32
  simp only [iWord_and, and_zero5, and_zero16, and_ones6]
  decide

theorem TableRow.addiu (rt rs : RegIdx) (imm : BitVec 16) : TableRow.Statement (.addiu rt rs imm) := by
  intro tc
  show iWord 0x09#6 rs rt imm &&& iWord 0x3F#6 0x0#5 0x0#5 0x0#16 = 0x24000000#32
  simp only [iWord_and, and_zero5, and_zero16, and_ones6]
  decide

theorem TableRow.and (rd rs rt : RegIdx) : TableRow.Statement (.and rd rs rt) := by
  intro tc
  show rWord 0x00#6 rs rt rd 0#5 0x24#6 &&& rWord 0x3F#6 0x0#5 0x0#5 0x0#5 0x1F#5 0x3F#6 = 0x00000024#32
  simp only [rWord_and, and_zero5, and_ones5, and_ones6]
  decide

theorem TableRow.or (rd rs rt : RegIdx) : TableRow.Statement (.or rd rs rt) := by
  intro tc
  show rWord 0x00#6 rs rt rd 0#5 0x25#6 &&& rWord 0x3F#6 0x0#5 0x0#5 0x0#5 0x1F#5 0x3F#6 = 0x00000025#32
  simp only [rWord_and, and_zero5, and_ones5, and_ones6]
  decide

theorem TableRow.xor (rd rs rt : RegIdx) : TableRow.Statement (.xor rd rs rt) := by
  intro tc
  show rWord 0x00#6 rs rt rd 0#5 0x26#6 &&& rWord 0x3F#6 0x0#5 0x0#5 0x0#5 0x1F#5 0x3F#6 = 0x00000026#32
  simp only [rWord_and, and_zero5, and_ones5, and_ones6]
  decide

theorem TableRow.nor (rd rs rt : RegIdx) : TableRow.Statement (.nor rd rs rt) := by
  intro tc
  show rWord 0x00#6 rs rt rd 0#5 0x27#6 &&& rWord 0x3F#6 0x0#5 0x0#5 0x0#5 0x1F#5 0x3F#6 = 0x00000027#32
  simp only [rWord_and, and_zero5, and_ones5, and_ones6]
  decide

theorem TableRow.andi (rt rs : RegIdx) (imm : BitVec 16) : TableRow.Statement (.andi rt rs imm) := by
  intro tc
  show iWord 0x0C#6 rs rt imm &&& iWord 0x3F#6 0x0#5 0x0#5 0x0#16 = 0x30000000#32
  simp only [iWord_and, and_zero5, and_zero16, and_ones6]
  decide

theorem TableRow.ori (rt rs : RegIdx) (imm : BitVec 16) : TableRow.Statement (.ori rt rs imm) := by
  intro tc
  show iWord 0x0D#6 rs rt imm &&& iWord 0x3F#6 0x0#5 0x0#5 0x0#16 = 0x34000000#32
  simp only [iWord_and, and_zero5, and_zero16, and_ones6]
  decide

theorem TableRow.xori (rt rs : RegIdx) (imm : BitVec 16) : TableRow.Statement (.xori rt rs imm) := by
  intro tc
  show iWord 0x0E#6 rs rt imm &&& iWord 0x3F#6 0x0#5 0x0#5 0x0#16 = 0x38000000#32
  simp only [iWord_and, and_zero5, and_zero16, and_ones6]
  decide

theorem TableRow.lui (rt : RegIdx) (imm : BitVec 16) : TableRow.Statement (.lui rt imm) := by
  intro tc
  show iWord 0x0F#6 0#5 rt imm &&& iWord 0x3F#6 0x1F#5 0x0#5 0x0#16 = 0x3C000000#32
  simp only [iWord_and, and_zero5, and_ones5, and_zero16, and_ones6]
  decide

theorem TableRow.slt (rd rs rt : RegIdx) : TableRow.Statement (.slt rd rs rt) := by
  intro tc
  show rWord 0x00#6 rs rt rd 0#5 0x2A#6 &&& rWord 0x3F#6 0x0#5 0x0#5 0x0#5 0x1F#5 0x3F#6 = 0x0000002A#32
  simp only [rWord_and, and_zero5, and_ones5, and_ones6]
  decide

theorem TableRow.sltu (rd rs rt : RegIdx) : TableRow.Statement (.sltu rd rs rt) := by
  intro tc
  show rWord 0x00#6 rs rt rd 0#5 0x2B#6 &&& rWord 0x3F#6 0x0#5 0x0#5 0x0#5 0x1F#5 0x3F#6 = 0x0000002B#32
  simp only [rWord_and, and_zero5, and_ones5, and_ones6]
  decide

theorem TableRow.slti (rt rs : RegIdx) (imm : BitVec 16) : TableRow.Statement (.slti rt rs imm) := by
  intro tc
  show iWord 0x0A#6 rs rt imm &&& iWord 0x3F#6 0x0#5 0x0#5 0x0#16 = 0x28000000#32
  simp only [iWord_and, and_zero5, and_zero16, and_ones6]
  decide

theorem TableRow.sltiu (rt rs : RegIdx) (imm : BitVec 16) : TableRow.Statement (.sltiu rt rs imm) := by
  intro tc
  show iWord 0x0B#6 rs rt imm &&& iWord 0x3F#6 0x0#5 0x0#5 0x0#16 = 0x2C000000#32
  simp only [iWord_and, and_zero5, and_zero16, and_ones6]
  decide

theorem TableRow.sll (rd rt : RegIdx) (shamt : BitVec 5) : TableRow.Statement (.sll rd rt shamt) := by
  intro tc
  show rWord 0x00#6 0#5 rt rd shamt 0x00#6 &&& rWord 0x3F#6 0x1F#5 0x0#5 0x0#5 0x0#5 0x3F#6 = 0x00000000#32
  simp only [rWord_and, and_zero5, and_ones5, and_ones6]
  decide

theorem TableRow.srl (rd rt : RegIdx) (shamt : BitVec 5) : TableRow.Statement (.srl rd rt shamt) := by
  intro tc
  show rWord 0x00#6 0#5 rt rd shamt 0x02#6 &&& rWord 0x3F#6 0x1F#5 0x0#5 0x0#5 0x0#5 0x3F#6 = 0x00000002#32
  simp only [rWord_and, and_zero5, and_ones5, and_ones6]
  decide

theorem TableRow.sra (rd rt : RegIdx) (shamt : BitVec 5) : TableRow.Statement (.sra rd rt shamt) := by
  intro tc
  show rWord 0x00#6 0#5 rt rd shamt 0x03#6 &&& rWord 0x3F#6 0x1F#5 0x0#5 0x0#5 0x0#5 0x3F#6 = 0x00000003#32
  simp only [rWord_and, and_zero5, and_ones5, and_ones6]
  decide

theorem TableRow.sllv (rd rt rs : RegIdx) : TableRow.Statement (.sllv rd rt rs) := by
  intro tc
  show rWord 0x00#6 rs rt rd 0#5 0x04#6 &&& rWord 0x3F#6 0x0#5 0x0#5 0x0#5 0x1F#5 0x3F#6 = 0x00000004#32
  simp only [rWord_and, and_zero5, and_ones5, and_ones6]
  decide

theorem TableRow.srlv (rd rt rs : RegIdx) : TableRow.Statement (.srlv rd rt rs) := by
  intro tc
  show rWord 0x00#6 rs rt rd 0#5 0x06#6 &&& rWord 0x3F#6 0x0#5 0x0#5 0x0#5 0x1F#5 0x3F#6 = 0x00000006#32
  simp only [rWord_and, and_zero5, and_ones5, and_ones6]
  decide

theorem TableRow.srav (rd rt rs : RegIdx) : TableRow.Statement (.srav rd rt rs) := by
  intro tc
  show rWord 0x00#6 rs rt rd 0#5 0x07#6 &&& rWord 0x3F#6 0x0#5 0x0#5 0x0#5 0x1F#5 0x3F#6 = 0x00000007#32
  simp only [rWord_and, and_zero5, and_ones5, and_ones6]
  decide

theorem TableRow.mult (rs rt : RegIdx) : TableRow.Statement (.mult rs rt) := by
  intro tc
  show rWord 0x00#6 rs rt 0#5 0#5 0x18#6 &&& rWord 0x3F#6 0x0#5 0x0#5 0x1F#5 0x1F#5 0x3F#6 = 0x00000018#32
  simp only [rWord_and, and_zero5, and_ones5, and_ones6]
  decide

theorem TableRow.multu (rs rt : RegIdx) : TableRow.Statement (.multu rs rt) := by
  intro tc
  show rWord 0x00#6 rs rt 0#5 0#5 0x19#6 &&& rWord 0x3F#6 0x0#5 0x0#5 0x1F#5 0x1F#5 0x3F#6 = 0x00000019#32
  simp only [rWord_and, and_zero5, and_ones5, and_ones6]
  decide

theorem TableRow.div (rs rt : RegIdx) : TableRow.Statement (.div rs rt) := by
  intro tc
  show rWord 0x00#6 rs rt 0#5 0#5 0x1A#6 &&& rWord 0x3F#6 0x0#5 0x0#5 0x1F#5 0x1F#5 0x3F#6 = 0x0000001A#32
  simp only [rWord_and, and_zero5, and_ones5, and_ones6]
  decide

theorem TableRow.divu (rs rt : RegIdx) : TableRow.Statement (.divu rs rt) := by
  intro tc
  show rWord 0x00#6 rs rt 0#5 0#5 0x1B#6 &&& rWord 0x3F#6 0x0#5 0x0#5 0x1F#5 0x1F#5 0x3F#6 = 0x0000001B#32
  simp only [rWord_and, and_zero5, and_ones5, and_ones6]
  decide

theorem TableRow.mfhi (rd : RegIdx) : TableRow.Statement (.mfhi rd) := by
  intro tc
  show rWord 0x00#6 0#5 0#5 rd 0#5 0x10#6 &&& rWord 0x3F#6 0x1F#5 0x1F#5 0x0#5 0x1F#5 0x3F#6 = 0x00000010#32
  simp only [rWord_and, and_zero5, and_ones5, and_ones6]
  decide

theorem TableRow.mthi (rs : RegIdx) : TableRow.Statement (.mthi rs) := by
  intro tc
  show rWord 0x00#6 rs 0#5 0#5 0#5 0x11#6 &&& rWord 0x3F#6 0x0#5 0x1F#5 0x1F#5 0x1F#5 0x3F#6 = 0x00000011#32
  simp only [rWord_and, and_zero5, and_ones5, and_ones6]
  decide

theorem TableRow.mflo (rd : RegIdx) : TableRow.Statement (.mflo rd) := by
  intro tc
  show rWord 0x00#6 0#5 0#5 rd 0#5 0x12#6 &&& rWord 0x3F#6 0x1F#5 0x1F#5 0x0#5 0x1F#5 0x3F#6 = 0x00000012#32
  simp only [rWord_and, and_zero5, and_ones5, and_ones6]
  decide

theorem TableRow.mtlo (rs : RegIdx) : TableRow.Statement (.mtlo rs) := by
  intro tc
  show rWord 0x00#6 rs 0#5 0#5 0#5 0x13#6 &&& rWord 0x3F#6 0x0#5 0x1F#5 0x1F#5 0x1F#5 0x3F#6 = 0x00000013#32
  simp only [rWord_and, and_zero5, and_ones5, and_ones6]
  decide

theorem TableRow.lb (rt rs : RegIdx) (imm : BitVec 16) : TableRow.Statement (.lb rt rs imm) := by
  intro tc
  show iWord 0x20#6 rs rt imm &&& iWord 0x3F#6 0x0#5 0x0#5 0x0#16 = 0x80000000#32
  simp only [iWord_and, and_zero5, and_zero16, and_ones6]
  decide

theorem TableRow.lbu (rt rs : RegIdx) (imm : BitVec 16) : TableRow.Statement (.lbu rt rs imm) := by
  intro tc
  show iWord 0x24#6 rs rt imm &&& iWord 0x3F#6 0x0#5 0x0#5 0x0#16 = 0x90000000#32
  simp only [iWord_and, and_zero5, and_zero16, and_ones6]
  decide

theorem TableRow.lh (rt rs : RegIdx) (imm : BitVec 16) : TableRow.Statement (.lh rt rs imm) := by
  intro tc
  show iWord 0x21#6 rs rt imm &&& iWord 0x3F#6 0x0#5 0x0#5 0x0#16 = 0x84000000#32
  simp only [iWord_and, and_zero5, and_zero16, and_ones6]
  decide

theorem TableRow.lhu (rt rs : RegIdx) (imm : BitVec 16) : TableRow.Statement (.lhu rt rs imm) := by
  intro tc
  show iWord 0x25#6 rs rt imm &&& iWord 0x3F#6 0x0#5 0x0#5 0x0#16 = 0x94000000#32
  simp only [iWord_and, and_zero5, and_zero16, and_ones6]
  decide

theorem TableRow.lw (rt rs : RegIdx) (imm : BitVec 16) : TableRow.Statement (.lw rt rs imm) := by
  intro tc
  show iWord 0x23#6 rs rt imm &&& iWord 0x3F#6 0x0#5 0x0#5 0x0#16 = 0x8C000000#32
  simp only [iWord_and, and_zero5, and_zero16, and_ones6]
  decide

theorem TableRow.sb (rt rs : RegIdx) (imm : BitVec 16) : TableRow.Statement (.sb rt rs imm) := by
  intro tc
  show iWord 0x28#6 rs rt imm &&& iWord 0x3F#6 0x0#5 0x0#5 0x0#16 = 0xA0000000#32
  simp only [iWord_and, and_zero5, and_zero16, and_ones6]
  decide

theorem TableRow.sh (rt rs : RegIdx) (imm : BitVec 16) : TableRow.Statement (.sh rt rs imm) := by
  intro tc
  show iWord 0x29#6 rs rt imm &&& iWord 0x3F#6 0x0#5 0x0#5 0x0#16 = 0xA4000000#32
  simp only [iWord_and, and_zero5, and_zero16, and_ones6]
  decide

theorem TableRow.lwl (rt rs : RegIdx) (imm : BitVec 16) : TableRow.Statement (.lwl rt rs imm) := by
  intro tc
  show iWord 0x22#6 rs rt imm &&& iWord 0x3F#6 0x0#5 0x0#5 0x0#16 = 0x88000000#32
  simp only [iWord_and, and_zero5, and_zero16, and_ones6]
  decide

theorem TableRow.lwr (rt rs : RegIdx) (imm : BitVec 16) : TableRow.Statement (.lwr rt rs imm) := by
  intro tc
  show iWord 0x26#6 rs rt imm &&& iWord 0x3F#6 0x0#5 0x0#5 0x0#16 = 0x98000000#32
  simp only [iWord_and, and_zero5, and_zero16, and_ones6]
  decide

theorem TableRow.swl (rt rs : RegIdx) (imm : BitVec 16) : TableRow.Statement (.swl rt rs imm) := by
  intro tc
  show iWord 0x2A#6 rs rt imm &&& iWord 0x3F#6 0x0#5 0x0#5 0x0#16 = 0xA8000000#32
  simp only [iWord_and, and_zero5, and_zero16, and_ones6]
  decide

theorem TableRow.swr (rt rs : RegIdx) (imm : BitVec 16) : TableRow.Statement (.swr rt rs imm) := by
  intro tc
  show iWord 0x2E#6 rs rt imm &&& iWord 0x3F#6 0x0#5 0x0#5 0x0#16 = 0xB8000000#32
  simp only [iWord_and, and_zero5, and_zero16, and_ones6]
  decide

theorem TableRow.sw (rt rs : RegIdx) (imm : BitVec 16) : TableRow.Statement (.sw rt rs imm) := by
  intro tc
  show iWord 0x2B#6 rs rt imm &&& iWord 0x3F#6 0x0#5 0x0#5 0x0#16 = 0xAC000000#32
  simp only [iWord_and, and_zero5, and_zero16, and_ones6]
  decide

theorem TableRow.j (target : BitVec 26) : TableRow.Statement (.j target) := by
  intro tc
  show jWord 0x02#6 target &&& jWord 0x3F#6 0#26 = 0x08000000#32
  simp only [jWord_and, and_zero26, and_ones6]
  decide

theorem TableRow.jal (target : BitVec 26) : TableRow.Statement (.jal target) := by
  intro tc
  show jWord 0x03#6 target &&& jWord 0x3F#6 0#26 = 0x0C000000#32
  simp only [jWord_and, and_zero26, and_ones6]
  decide

theorem TableRow.jr (rs : RegIdx) : TableRow.Statement (.jr rs) := by
  intro tc
  show rWord 0x00#6 rs 0#5 0#5 0#5 0x08#6 &&& rWord 0x3F#6 0x0#5 0x1F#5 0x1F#5 0x1F#5 0x3F#6 = 0x00000008#32
  simp only [rWord_and, and_zero5, and_ones5, and_ones6]
  decide

theorem TableRow.jalr (rd rs : RegIdx) : TableRow.Statement (.jalr rd rs) := by
  intro tc
  show rWord 0x00#6 rs 0#5 rd 0#5 0x09#6 &&& rWord 0x3F#6 0x0#5 0x1F#5 0x0#5 0x1F#5 0x3F#6 = 0x00000009#32
  simp only [rWord_and, and_zero5, and_ones5, and_ones6]
  decide

theorem TableRow.beq (rs rt : RegIdx) (imm : BitVec 16) : TableRow.Statement (.beq rs rt imm) := by
  intro tc
  show iWord 0x04#6 rs rt imm &&& iWord 0x3F#6 0x0#5 0x0#5 0x0#16 = 0x10000000#32
  simp only [iWord_and, and_zero5, and_zero16, and_ones6]
  decide

theorem TableRow.bne (rs rt : RegIdx) (imm : BitVec 16) : TableRow.Statement (.bne rs rt imm) := by
  intro tc
  show iWord 0x05#6 rs rt imm &&& iWord 0x3F#6 0x0#5 0x0#5 0x0#16 = 0x14000000#32
  simp only [iWord_and, and_zero5, and_zero16, and_ones6]
  decide

theorem TableRow.blez (rs : RegIdx) (imm : BitVec 16) : TableRow.Statement (.blez rs imm) := by
  intro tc
  show iWord 0x06#6 rs 0#5 imm &&& iWord 0x3F#6 0x0#5 0x1F#5 0x0#16 = 0x18000000#32
  simp only [iWord_and, and_zero5, and_ones5, and_zero16, and_ones6]
  decide

theorem TableRow.bgtz (rs : RegIdx) (imm : BitVec 16) : TableRow.Statement (.bgtz rs imm) := by
  intro tc
  show iWord 0x07#6 rs 0#5 imm &&& iWord 0x3F#6 0x0#5 0x1F#5 0x0#16 = 0x1C000000#32
  simp only [iWord_and, and_zero5, and_ones5, and_zero16, and_ones6]
  decide

theorem TableRow.bltz (rs : RegIdx) (imm : BitVec 16) : TableRow.Statement (.bltz rs imm) := by
  intro tc
  show iWord 0x01#6 rs 0x00#5 imm &&& iWord 0x3F#6 0x0#5 0x1F#5 0x0#16 = 0x04000000#32
  simp only [iWord_and, and_zero5, and_ones5, and_zero16, and_ones6]
  decide

theorem TableRow.bgez (rs : RegIdx) (imm : BitVec 16) : TableRow.Statement (.bgez rs imm) := by
  intro tc
  show iWord 0x01#6 rs 0x01#5 imm &&& iWord 0x3F#6 0x0#5 0x1F#5 0x0#16 = 0x04010000#32
  simp only [iWord_and, and_zero5, and_ones5, and_zero16, and_ones6]
  decide

theorem TableRow.bltzal (rs : RegIdx) (imm : BitVec 16) : TableRow.Statement (.bltzal rs imm) := by
  intro tc
  show iWord 0x01#6 rs 0x10#5 imm &&& iWord 0x3F#6 0x0#5 0x1F#5 0x0#16 = 0x04100000#32
  simp only [iWord_and, and_zero5, and_ones5, and_zero16, and_ones6]
  decide

theorem TableRow.bgezal (rs : RegIdx) (imm : BitVec 16) : TableRow.Statement (.bgezal rs imm) := by
  intro tc
  show iWord 0x01#6 rs 0x11#5 imm &&& iWord 0x3F#6 0x0#5 0x1F#5 0x0#16 = 0x04110000#32
  simp only [iWord_and, and_zero5, and_ones5, and_zero16, and_ones6]
  decide

theorem TableRow.syscall (code : BitVec 20) : TableRow.Statement (.syscall code) := by
  intro tc
  show codeWord code 0x0C#6 &&& rWord 0x3F#6 0#5 0#5 0#5 0#5 0x3F#6 = 0x0000000C#32
  simp only [codeWord_and_mask, and_ones6]
  decide

theorem TableRow.brk (code : BitVec 20) : TableRow.Statement (.brk code) := by
  intro tc
  show codeWord code 0x0D#6 &&& rWord 0x3F#6 0#5 0#5 0#5 0#5 0x3F#6 = 0x0000000D#32
  simp only [codeWord_and_mask, and_ones6]
  decide

theorem TableRow.mfc0 (rt rd : RegIdx) : TableRow.Statement (.mfc0 rt rd) := by
  intro tc
  show rWord 0x10#6 0x00#5 rt rd 0#5 0#6 &&& rWord 0x3F#6 0x1F#5 0x0#5 0x0#5 0x1F#5 0x3F#6 = 0x40000000#32
  simp only [rWord_and, and_zero5, and_ones5, and_ones6]
  decide

theorem TableRow.mtc0 (rt rd : RegIdx) : TableRow.Statement (.mtc0 rt rd) := by
  intro tc
  show rWord 0x10#6 0x04#5 rt rd 0#5 0#6 &&& rWord 0x3F#6 0x1F#5 0x0#5 0x0#5 0x1F#5 0x3F#6 = 0x40800000#32
  simp only [rWord_and, and_zero5, and_ones5, and_ones6]
  decide

theorem TableRow.tlbwi : TableRow.Statement (.tlbwi) := by
  intro tc
  show rWord 0x10#6 0x10#5 0#5 0#5 0#5 0x02#6 &&& rWord 0x3F#6 0x1F#5 0x1F#5 0x1F#5 0x1F#5 0x3F#6 = 0x42000002#32
  simp only [rWord_and, and_ones5, and_ones6]
  decide

theorem TableRow.tlbwr : TableRow.Statement (.tlbwr) := by
  intro tc
  show rWord 0x10#6 0x10#5 0#5 0#5 0#5 0x06#6 &&& rWord 0x3F#6 0x1F#5 0x1F#5 0x1F#5 0x1F#5 0x3F#6 = 0x42000006#32
  simp only [rWord_and, and_ones5, and_ones6]
  decide

theorem TableRow.tlbr : TableRow.Statement (.tlbr) := by
  intro tc
  show rWord 0x10#6 0x10#5 0#5 0#5 0#5 0x01#6 &&& rWord 0x3F#6 0x1F#5 0x1F#5 0x1F#5 0x1F#5 0x3F#6 = 0x42000001#32
  simp only [rWord_and, and_ones5, and_ones6]
  decide

theorem TableRow.tlbclr : TableRow.Statement (.tlbclr) := by
  intro tc
  show rWord 0x10#6 0x10#5 0#5 0#5 0#5 tc &&& rWord 0x3F#6 0x1F#5 0x1F#5 0x1F#5 0x1F#5 0x0#6 = 0x42000000#32
  simp only [rWord_and, and_ones5, and_zero6, and_ones6]
  decide

theorem TableRow.tlbp : TableRow.Statement (.tlbp) := by
  intro tc
  show rWord 0x10#6 0x10#5 0#5 0#5 0#5 0x08#6 &&& rWord 0x3F#6 0x1F#5 0x1F#5 0x1F#5 0x1F#5 0x3F#6 = 0x42000008#32
  simp only [rWord_and, and_ones5, and_ones6]
  decide

theorem TableRow.rfe : TableRow.Statement (.rfe) := by
  intro tc
  show rWord 0x10#6 0x10#5 0#5 0#5 0#5 0x10#6 &&& rWord 0x3F#6 0x1F#5 0x1F#5 0x1F#5 0x1F#5 0x3F#6 = 0x42000010#32
  simp only [rWord_and, and_ones5, and_ones6]
  decide

theorem TableRow.cop1 (any : BitVec 26) : TableRow.Statement (.cop1 any) := by
  intro tc
  show jWord 0x11#6 any &&& jWord 0x3F#6 0#26 = 0x44000000#32
  simp only [jWord_and, and_zero26, and_ones6]
  decide

theorem TableRow.cop2 (any : BitVec 26) : TableRow.Statement (.cop2 any) := by
  intro tc
  show jWord 0x12#6 any &&& jWord 0x3F#6 0#26 = 0x48000000#32
  simp only [jWord_and, and_zero26, and_ones6]
  decide

theorem TableRow.cop3 (any : BitVec 26) : TableRow.Statement (.cop3 any) := by
  intro tc
  show jWord 0x13#6 any &&& jWord 0x3F#6 0#26 = 0x4C000000#32
  simp only [jWord_and, and_zero26, and_ones6]
  decide

theorem TableRow.lwc1 (any : BitVec 26) : TableRow.Statement (.lwc1 any) := by
  intro tc
  show jWord 0x31#6 any &&& jWord 0x3F#6 0#26 = 0xC4000000#32
  simp only [jWord_and, and_zero26, and_ones6]
  decide

theorem TableRow.lwc2 (any : BitVec 26) : TableRow.Statement (.lwc2 any) := by
  intro tc
  show jWord 0x32#6 any &&& jWord 0x3F#6 0#26 = 0xC8000000#32
  simp only [jWord_and, and_zero26, and_ones6]
  decide

theorem TableRow.lwc3 (any : BitVec 26) : TableRow.Statement (.lwc3 any) := by
  intro tc
  show jWord 0x33#6 any &&& jWord 0x3F#6 0#26 = 0xCC000000#32
  simp only [jWord_and, and_zero26, and_ones6]
  decide

theorem TableRow.swc1 (any : BitVec 26) : TableRow.Statement (.swc1 any) := by
  intro tc
  show jWord 0x39#6 any &&& jWord 0x3F#6 0#26 = 0xE4000000#32
  simp only [jWord_and, and_zero26, and_ones6]
  decide

theorem TableRow.swc2 (any : BitVec 26) : TableRow.Statement (.swc2 any) := by
  intro tc
  show jWord 0x3A#6 any &&& jWord 0x3F#6 0#26 = 0xE8000000#32
  simp only [jWord_and, and_zero26, and_ones6]
  decide

theorem TableRow.swc3 (any : BitVec 26) : TableRow.Statement (.swc3 any) := by
  intro tc
  show jWord 0x3B#6 any &&& jWord 0x3F#6 0#26 = 0xEC000000#32
  simp only [jWord_and, and_zero26, and_ones6]
  decide

end Sys2Proof.Laws
end

