-- ==== Sys2Proof/Laws/Step.lean ====
section
/-! SUPPORT. What an instruction and what a step can do, each said once. -/

namespace Sys2Proof.Machine

/-- Everything `exec` can answer as a next state. -/
inductive Effect (s : State) : State → Prop where
  /-- an exception entry -/
  | entry (e : Exc) : Effect s (s.takeException e).commitLoad
  /-- general registers, HI, LO and the program counter -/
  | registers (hi lo : Word) (e : Retire) : Effect s (({ s with hi := hi, lo := lo } : State).retire e)
  /-- a store through the access path -/
  | store {u : State} {w : Width} {va v : Word} (h : s.memWrite w va v = .ok u) : Effect s (u.retire {})
  /-- SWL's or SWR's store -/
  | storeAround {u : State} {va : Word} {f : Word → Word} (h : s.writeAround va f = .ok u) : Effect s (u.retire {})
  /-- MTC0 -/
  | cp0 {u : State} {rd : RegIdx} {v : Word} (hu : s.cop0Usable = true) (h : s.cp0Write rd v = some u) :
      Effect s (u.retire {})
  /-- TLBWI, TLBWR, TLBCLR -/
  | tlb (hu : s.cop0Usable = true) (v : Vector TlbEntry 64) : Effect s (({ s with tlb := v } : State).retire {})
  /-- TLBR -/
  | tlbRead (hu : s.cop0Usable = true) (hi lo : Word) :
      Effect s (({ s with entryHi := hi, entryLo := lo } : State).retire {})
  /-- TLBP -/
  | probe (hu : s.cop0Usable = true) (v : Word) : Effect s (({ s with index := v } : State).retire {})
  /-- RFE -/
  | rfe (hu : s.cop0Usable = true) : Effect s (s.returnFromException.retire {})

theorem raise_effect {e : Exc} {s t : State} (h : raise e s = .next t) : Effect s t := by
  cases h; exact .entry e

theorem finish_effect {s t : State} {rd : RegIdx} {v : Word} (h : finish s rd v = .next t) : Effect s t := by
  cases h; exact .registers s.hi s.lo _

theorem finishOrOverflow_effect {s t : State} {b : Bool} {rd : RegIdx} {v : Word}
    (h : finishOrOverflow s b rd v = .next t) : Effect s t := by
  unfold finishOrOverflow at h
  split at h
  · exact raise_effect h
  · exact finish_effect h

theorem finishHiLo_effect {s t : State} {hi lo : Word} (h : finishHiLo s hi lo = .next t) : Effect s t := by
  cases h; exact .registers hi lo _

theorem finishLoad_effect {s t : State} {rt : RegIdx} {f : Word → Word} {a : Access Word}
    (h : finishLoad s rt f a = .next t) : Effect s t := by
  cases a with
  | ok v => cases h; exact .registers s.hi s.lo _
  | raise e => exact raise_effect h
  | refuse r => cases h

theorem finishStore_effect {s t : State} {w : Width} {va v : Word}
    (h : finishStore s (s.memWrite w va v) = .next t) : Effect s t := by
  cases ha : s.memWrite w va v with
  | ok u => rw [ha] at h; cases h; exact .store ha
  | raise e => rw [ha] at h; exact raise_effect h
  | refuse r => rw [ha] at h; cases h

theorem finishStoreAround_effect {s t : State} {va : Word} {f : Word → Word}
    (h : finishStore s (s.writeAround va f) = .next t) : Effect s t := by
  cases ha : s.writeAround va f with
  | ok u => rw [ha] at h; cases h; exact .storeAround ha
  | raise e => rw [ha] at h; exact raise_effect h
  | refuse r => rw [ha] at h; cases h

theorem finishBranch_effect {s t : State} {a : Option Word} {l : Option RegIdx}
    (h : finishBranch s a l = .next t) : Effect s t := by
  unfold finishBranch at h
  split at h
  · cases h
  · cases h; exact .registers s.hi s.lo _

/-- A coprocessor 0 instruction: its own effect where coprocessor 0 is usable, else the entry. -/
theorem ifCop0Usable_effect {s t : State} {k : Result} (h : ifCop0Usable s k = .next t)
    (hk : s.cop0Usable = true → k = .next t → Effect s t) : Effect s t := by
  cases hu : s.cop0Usable with
  | true => rw [ifCop0Usable_pos s k hu] at h; exact hk hu h
  | false => rw [ifCop0Usable_neg s k hu] at h; exact raise_effect h

theorem execDiv_effect {rs rt : RegIdx} {s t : State} (h : execDiv rs rt s = .next t) : Effect s t := by
  unfold execDiv at h
  split at h
  · exact finishHiLo_effect h
  · exact finishHiLo_effect h

theorem execDivu_effect {rs rt : RegIdx} {s t : State} (h : execDivu rs rt s = .next t) : Effect s t := by
  unfold execDivu at h
  split at h
  · exact finishHiLo_effect h
  · exact finishHiLo_effect h

theorem execMfc0_effect {rt rd : RegIdx} {s t : State} (h : execMfc0 rt rd s = .next t) : Effect s t :=
  ifCop0Usable_effect h fun _ hk => by
    split at hk
    · cases hk; exact .registers s.hi s.lo _
    · cases hk

theorem execMtc0_effect {rt rd : RegIdx} {s t : State} (h : execMtc0 rt rd s = .next t) : Effect s t :=
  ifCop0Usable_effect h fun hu hk => by
    split at hk
    · cases hk; exact .cp0 hu ‹_›
    · cases hk

theorem execTlbwi_effect {s t : State} (h : execTlbwi s = .next t) : Effect s t :=
  ifCop0Usable_effect h fun hu hk => by
    split at hk
    · cases hk; exact .tlb hu _
    · cases hk

theorem execTlbr_effect {s t : State} (h : execTlbr s = .next t) : Effect s t :=
  ifCop0Usable_effect h fun hu hk => by
    split at hk
    · cases hk; exact .tlbRead hu _ _
    · cases hk

/-- What any instruction can do. -/
theorem exec_effect {i : Instr} {s t : State} (h : exec i s = .next t) : Effect s t := by
  cases i
  case add => exact finishOrOverflow_effect h
  case sub => exact finishOrOverflow_effect h
  case addi => exact finishOrOverflow_effect h
  case mult => exact finishHiLo_effect h
  case multu => exact finishHiLo_effect h
  case div => exact execDiv_effect h
  case divu => exact execDivu_effect h
  case mthi => exact finishHiLo_effect h
  case mtlo => exact finishHiLo_effect h
  case mfc0 => exact execMfc0_effect h
  case mtc0 => exact execMtc0_effect h
  case tlbwi => exact execTlbwi_effect h
  case tlbwr => exact ifCop0Usable_effect h fun hu hk => by cases hk; exact .tlb hu _
  case tlbr => exact execTlbr_effect h
  case tlbclr => exact ifCop0Usable_effect h fun hu hk => by cases hk; exact .tlb hu _
  case tlbp => exact ifCop0Usable_effect h fun hu hk => by cases hk; exact .probe hu _
  case rfe => exact ifCop0Usable_effect h fun hu hk => by cases hk; exact .rfe hu
  case swl => exact finishStoreAround_effect h
  case swr => exact finishStoreAround_effect h
  case sb => exact finishStore_effect h
  case sh => exact finishStore_effect h
  case sw => exact finishStore_effect h
  case lb => exact finishLoad_effect h
  case lbu => exact finishLoad_effect h
  case lh => exact finishLoad_effect h
  case lhu => exact finishLoad_effect h
  case lw => exact finishLoad_effect h
  case lwl => exact finishLoad_effect h
  case lwr => exact finishLoad_effect h
  all_goals first
    | exact finish_effect h
    | exact finishBranch_effect h
    | exact raise_effect h

/-! ### The step -/

/-- What a step can do after the agents have run: nothing more when the run has ended, an exception entry, an
instruction, or at level 2 a ROM macro-step. -/
inductive Turn (s : State) : State → Prop where
  | ended (h : s.ended.isSome = true) : Turn s s
  | entry (e : Exc) : Turn s (s.takeException e).commitLoad
  | instruction {t : State} (h : Effect s t) : Turn s t
  | rom {t : State} (hc : s.params.romContract = true) (h : romStep s = .next t) : Turn s t

theorem decodeStep_turn {s t : State} {w : Word}
    (h : (match decodeStep s w with | .done r => r | .run i u => exec i u) = .next t) : Turn s t := by
  unfold decodeStep at h
  split at h
  · rename_i heq
    split at heq <;> cases heq
    · cases h; exact .entry _
    · refine .instruction (ifCop0Usable_effect h fun _ hk => raise_effect hk)
    · cases h
    · refine .instruction (ifCop0Usable_effect h fun _ hk => by cases hk)
  · rename_i heq
    split at heq <;> cases heq
    exact .instruction (exec_effect h)

theorem fetchStep_turn {s t : State}
    (h : (match fetchStep s with | .done r => r | .run i u => exec i u) = .next t) : Turn s t := by
  unfold fetchStep at h
  by_cases hc : s.contractFetch = true
  · rw [if_pos hc] at h
    have hr : s.params.romContract = true := by
      unfold State.contractFetch at hc; simp only [Bool.and_eq_true] at hc; exact hc.1
    exact .rom hr h
  · rw [if_neg hc] at h
    cases hm : s.memRead .fetch .word s.pc with
    | ok w => rw [hm] at h; exact decodeStep_turn h
    | raise e => rw [hm] at h; cases h; exact .entry _
    | refuse r => rw [hm] at h; cases h

/-- The machine's turn, case by case, in the state `u` the agents leave. -/
theorem machineTurn_eq (s u : State) (hu : s.agents = u) :
    s.machineTurn =
      if s.params.wf = true then
        (if u.ended.isSome = true then .done (.next u)
          else if u.interruptTaken = true then .done (raise .int u) else fetchStep u)
      else .done (.refused .badConfiguration) := by
  unfold State.machineTurn
  dsimp only
  rw [hu]
  cases s.params.wf <;> rfl

theorem machineTurn_turn {s u t : State} (hu : s.agents = u)
    (h : (match s.machineTurn with | .done r => r | .run i v => exec i v) = .next t) :
    s.params.wf = true ∧ Turn u t := by
  rw [machineTurn_eq s u hu] at h
  by_cases hw : s.params.wf = true
  · refine ⟨hw, ?_⟩
    rw [if_pos hw] at h
    by_cases he : u.ended.isSome = true
    · rw [if_pos he] at h; cases h; exact .ended he
    · rw [if_neg he] at h
      by_cases hi : u.interruptTaken = true
      · rw [if_pos hi] at h; cases h; exact .entry _
      · rw [if_neg hi] at h; exact fetchStep_turn h
  · rw [if_neg hw] at h; cases h

/-- Everything a step can do: the agents run on an allowed configuration, then one turn of the machine. -/
theorem step_turn {s t : State} (h : step s = .next t) :
    ∃ u, AfterAgents s u ∧ u.params.wf = true ∧ Turn u t := by
  unfold step State.cycle at h
  cases hi : s.inputs with
  | nil =>
    rw [hi] at h
    obtain ⟨hw, ht⟩ := machineTurn_turn rfl h
    exact ⟨_, .inl ⟨hi, rfl⟩, by rw [State.agents_params]; exact hw, ht⟩
  | cons acts rest =>
    rw [hi] at h
    obtain ⟨hw, ht⟩ := machineTurn_turn rfl h
    exact ⟨_, .inr ⟨acts, rest, hi, rfl⟩, by rw [State.agents_params]; exact hw, ht⟩

/-- A step without a host action. -/
theorem step_turn_quiet {s t : State} (hi : s.inputs = []) (h : step s = .next t) :
    s.params.wf = true ∧ Turn s.agents t := by
  unfold step State.cycle at h
  rw [hi] at h
  exact machineTurn_turn rfl h

end Sys2Proof.Machine
end

