-- ==== Sys2Proof/Tests/Slice0.lean ====
section
/-! SUPPORT. Tests: ill-formed terms, one written-out word a constructor, one step on a small state for each
instruction, and a witness for every statement that has hypotheses. Expected values are the spec's: rules are
named, and `B.n` is a table of spec/95_test_vectors.md. -/

namespace Sys2Proof.Tests

open Sys2Proof.Machine

/-! ### Helpers -/

/-- What a next state shows; none after a refusal. -/
def got {α : Type} (r : Result) (f : State → α) : Option α :=
  match r with
  | .next t => some (f t)
  | _ => none

/-- Why a step was refused. -/
def refusal (r : Result) : Option Refusal :=
  match r with
  | .refused e => some e
  | _ => none

/-- The machine after reset, about to execute at 0x20001000 in RAM. -/
def base : State := { State.reset with pc := 0x20001000#32, npc := 0x20001004#32 }

/-- `base` with $1 = a, $2 = b. -/
def with12 (a b : Word) : State := { base with gpr := (base.gpr.set 1 a).set 2 b }

/-- A state with a word in memory, stored as SW stores it. -/
def putWord (a : Nat) (w : Word) (s : State) : State := { s with mem := s.mem.writeWord s.params.bigEndian a w }

/-- A big-endian machine. -/
def big (s : State) : State := { s with params := { s.params with bigEndian := true } }

/-- One step on the word given. -/
def stepOn (w : Word) (s : State) : Result := step (putWord s.pc.toNat w s)

/-- The registers an exception entry writes, and the new pc. -/
def entry (t : State) : Word × Word × Word × Word := (t.epc, t.cause, t.status, t.pc)

/-- The pc, the address after it, and $31. -/
def flow (t : State) : Word × Word × Word := (t.pc, t.npc, t.reg 31#5)

/-- Whether each word decodes to the instruction beside it. -/
def decodesTo (l : List (Word × Instr)) : Bool := l.all fun p => decodeTableWord 32 p.1.toNat == some p.2

/-! ### Ill-formed terms (R259, R266, R267, R275, R276) -/

theorem test_wf_jalr_same_register : Instr.wf (.jalr 5#5 5#5) = false := by decide
theorem test_wf_bltzal_31 : Instr.wf (.bltzal 31#5 0#16) = false := by decide
theorem test_wf_bgezal_31 : Instr.wf (.bgezal 31#5 0#16) = false := by decide
theorem test_wf_mfc0_no_register : Instr.wf (.mfc0 2#5 3#5) = false := by decide
theorem test_wf_mtc0_no_register : Instr.wf (.mtc0 2#5 11#5) = false := by decide

/-! ### Decoding (R143 to R148, the words of B.1 to B.6) -/

theorem test_decode_arithmetic : decodesTo
    [(0x00221820#32, .add 3#5 1#5 2#5), (0x00221821#32, .addu 3#5 1#5 2#5), (0x00221822#32, .sub 3#5 1#5 2#5),
     (0x00221823#32, .subu 3#5 1#5 2#5), (0x2022FFFF#32, .addi 2#5 1#5 0xFFFF#16),
     (0x2422FFFF#32, .addiu 2#5 1#5 0xFFFF#16)] = true := by decide

theorem test_decode_logic : decodesTo
    [(0x00221824#32, .and 3#5 1#5 2#5), (0x00221825#32, .or 3#5 1#5 2#5), (0x00221826#32, .xor 3#5 1#5 2#5),
     (0x00221827#32, .nor 3#5 1#5 2#5), (0x3022FFFF#32, .andi 2#5 1#5 0xFFFF#16),
     (0x34228000#32, .ori 2#5 1#5 0x8000#16), (0x3822FFFF#32, .xori 2#5 1#5 0xFFFF#16),
     (0x3C028000#32, .lui 2#5 0x8000#16)] = true := by decide

theorem test_decode_set_and_shift : decodesTo
    [(0x0022182A#32, .slt 3#5 1#5 2#5), (0x0022182B#32, .sltu 3#5 1#5 2#5), (0x2822FFFF#32, .slti 2#5 1#5 0xFFFF#16),
     (0x2C22FFFF#32, .sltiu 2#5 1#5 0xFFFF#16), (0x00021900#32, .sll 3#5 2#5 4#5), (0x00021902#32, .srl 3#5 2#5 4#5),
     (0x00021903#32, .sra 3#5 2#5 4#5), (0x00221804#32, .sllv 3#5 2#5 1#5), (0x00221806#32, .srlv 3#5 2#5 1#5),
     (0x00221807#32, .srav 3#5 2#5 1#5)] = true := by decide

theorem test_decode_muldiv : decodesTo
    [(0x00220018#32, .mult 1#5 2#5), (0x00220019#32, .multu 1#5 2#5), (0x0022001A#32, .div 1#5 2#5),
     (0x0022001B#32, .divu 1#5 2#5), (0x00001810#32, .mfhi 3#5), (0x00200011#32, .mthi 1#5),
     (0x00001812#32, .mflo 3#5), (0x00200013#32, .mtlo 1#5)] = true := by decide

theorem test_decode_loads : decodesTo
    [(0x80230000#32, .lb 3#5 1#5 0#16), (0x90240003#32, .lbu 4#5 1#5 3#16), (0x84250002#32, .lh 5#5 1#5 2#16),
     (0x94250002#32, .lhu 5#5 1#5 2#16), (0x8C260000#32, .lw 6#5 1#5 0#16), (0x88220003#32, .lwl 2#5 1#5 3#16),
     (0x98220000#32, .lwr 2#5 1#5 0#16)] = true := by decide

theorem test_decode_stores : decodesTo
    [(0xA0220001#32, .sb 2#5 1#5 1#16), (0xA4260001#32, .sh 6#5 1#5 1#16), (0xAC260002#32, .sw 6#5 1#5 2#16),
     (0xA8220000#32, .swl 2#5 1#5 0#16), (0xB8220008#32, .swr 2#5 1#5 8#16)] = true := by decide

theorem test_decode_jumps : decodesTo
    [(0x08000410#32, .j 0x410#26), (0x0C000410#32, .jal 0x410#26), (0x03E00008#32, .jr 31#5),
     (0x0320F809#32, .jalr 31#5 25#5)] = true := by decide

theorem test_decode_branches : decodesTo
    [(0x10220003#32, .beq 1#5 2#5 3#16), (0x1420FFFD#32, .bne 1#5 0#5 0xFFFD#16), (0x18200003#32, .blez 1#5 3#16),
     (0x1C200003#32, .bgtz 1#5 3#16), (0x04200003#32, .bltz 1#5 3#16), (0x04210003#32, .bgez 1#5 3#16),
     (0x04300003#32, .bltzal 1#5 3#16), (0x04310003#32, .bgezal 1#5 3#16)] = true := by decide

theorem test_decode_system : decodesTo
    [(0x0000000C#32, .syscall 0#20), (0x03FFFFCD#32, .brk 0xFFFFF#20), (0x40026000#32, .mfc0 2#5 12#5),
     (0x40826000#32, .mtc0 2#5 12#5), (0x42000002#32, .tlbwi), (0x42000006#32, .tlbwr), (0x42000001#32, .tlbr),
     (0x42000000#32, .tlbclr), (0x42000008#32, .tlbp), (0x42000010#32, .rfe)] = true := by decide

theorem test_decode_coprocessors : decodesTo
    [(0x46020800#32, .cop1 0x2020800#26), (0x4A000001#32, .cop2 0x2000001#26), (0x4C000000#32, .cop3 0#26),
     (0xC4200000#32, .lwc1 0x0200000#26), (0xC8200004#32, .lwc2 0x0200004#26), (0xCC200008#32, .lwc3 0x0200008#26),
     (0xE4200000#32, .swc1 0x0200000#26), (0xE8200004#32, .swc2 0x0200004#26),
     (0xEFFFFFFF#32, .swc3 0x3FFFFFF#26)] = true := by decide

/-- B.1: unassigned numbers, and a non-zero unused field. -/
theorem test_decode_rejects :
    (decode 0x3F#6 0xFC000000#32 = .error .reserved ∧ decode 0x3F#6 0x00000001#32 = .error .reserved)
      ∧ (decode 0x3F#6 0x04020000#32 = .error .reserved ∧ decode 0x3F#6 0x00221861#32 = .error .unusedField)
      ∧ decode 0x3F#6 0x42000000#32 = .error .cop0Reserved ∧ decode 0x3F#6 0x4200003F#32 = .ok .tlbclr := by
  decide

/-- A word placed where the machine fetches first is the first instruction it runs. -/
theorem test_with_fetch_word :
    got (step (State.reset.withFetchWord 32 0x2402002A)) (·.reg 2#5) = some 0x2A#32 := by decide

/-! ### Arithmetic, logic, comparison, shifts (B.2) -/

theorem test_add_wraps_to_zero :
    got (stepOn 0x00221820#32 (with12 0xFFFFFFFF#32 1#32)) (·.reg 3#5) = some 0#32 := by decide

/-- Overflow through the bootstrap vector (C.3). -/
theorem test_add_overflow :
    got (stepOn 0x00221820#32 (with12 0x7FFFFFFF#32 1#32)) entry
      = some (0x20001000#32, 0x00000030#32, 0x10400000#32, 0x1FC00180#32) := by decide

theorem test_addu_wraps :
    got (stepOn 0x00221821#32 (with12 0x7FFFFFFF#32 1#32)) (·.reg 3#5) = some 0x80000000#32 := by decide

/-- `addu $0,$1,$2`: x[0] stays 0 (R21). -/
theorem test_addu_zero_register :
    got (stepOn 0x00220021#32 (with12 1#32 2#32)) (·.reg 0#5) = some 0#32 := by decide

theorem test_sub_overflow :
    got (stepOn 0x00221822#32 (with12 0#32 0x80000000#32)) (fun t => (t.cause, t.reg 3#5))
      = some (0x00000030#32, 0#32) := by decide

theorem test_sub_operand_order :
    got (stepOn 0x00221822#32 (with12 5#32 7#32)) (·.reg 3#5) = some 0xFFFFFFFE#32 := by decide

theorem test_subu_wraps :
    got (stepOn 0x00221823#32 (with12 0#32 1#32)) (·.reg 3#5) = some 0xFFFFFFFF#32 := by decide

theorem test_addi_negative :
    got (stepOn 0x2022FFFF#32 (with12 0#32 0#32)) (·.reg 2#5) = some 0xFFFFFFFF#32 := by decide

theorem test_addi_overflow :
    got (stepOn 0x2022FFFF#32 (with12 0x80000000#32 9#32)) (fun t => (t.cause, t.reg 2#5))
      = some (0x00000030#32, 9#32) := by decide

theorem test_addiu_wraps :
    got (stepOn 0x2422FFFF#32 (with12 0x80000000#32 0#32)) (·.reg 2#5) = some 0x7FFFFFFF#32 := by decide

theorem test_and :
    got (stepOn 0x00221824#32 (with12 0x0F0F0F0F#32 0x00FF00FF#32)) (·.reg 3#5) = some 0x000F000F#32 := by decide

theorem test_or :
    got (stepOn 0x00221825#32 (with12 0x0F0F0F0F#32 0x00FF00FF#32)) (·.reg 3#5) = some 0x0FFF0FFF#32 := by decide

theorem test_xor :
    got (stepOn 0x00221826#32 (with12 0x0F0F0F0F#32 0x00FF00FF#32)) (·.reg 3#5) = some 0x0FF00FF0#32 := by decide

theorem test_nor :
    got (stepOn 0x00221827#32 (with12 0x0F0F0F0F#32 0x00FF00FF#32)) (·.reg 3#5) = some 0xF000F000#32 := by decide

theorem test_andi_zero_extends :
    got (stepOn 0x3022FFFF#32 (with12 0x12345678#32 0#32)) (·.reg 2#5) = some 0x00005678#32 := by decide

theorem test_ori_zero_extends :
    got (stepOn 0x34228000#32 (with12 0#32 0#32)) (·.reg 2#5) = some 0x00008000#32 := by decide

theorem test_xori_zero_extends :
    got (stepOn 0x3822FFFF#32 (with12 0xFFFFFFFF#32 0#32)) (·.reg 2#5) = some 0xFFFF0000#32 := by decide

theorem test_lui : got (stepOn 0x3C028000#32 base) (·.reg 2#5) = some 0x80000000#32 := by decide

theorem test_slt_signed :
    got (stepOn 0x0022182A#32 (with12 0xFFFFFFFF#32 1#32)) (·.reg 3#5) = some 1#32 := by decide

theorem test_sltu_unsigned :
    got (stepOn 0x0022182B#32 (with12 0xFFFFFFFF#32 1#32)) (·.reg 3#5) = some 0#32 := by decide

theorem test_slti_signed :
    got (stepOn 0x2822FFFF#32 (with12 0xFFFFFFFE#32 0#32)) (·.reg 2#5) = some 1#32 := by decide

theorem test_sltiu_sign_extends :
    got (stepOn 0x2C22FFFF#32 (with12 5#32 0#32)) (·.reg 2#5) = some 1#32 := by decide

theorem test_sll : got (stepOn 0x00021900#32 (with12 0#32 0x80000001#32)) (·.reg 3#5) = some 0x10#32 := by decide

theorem test_srl :
    got (stepOn 0x00021902#32 (with12 0#32 0x80000000#32)) (·.reg 3#5) = some 0x08000000#32 := by decide

theorem test_sra :
    got (stepOn 0x00021903#32 (with12 0#32 0x80000000#32)) (·.reg 3#5) = some 0xF8000000#32 := by decide

theorem test_sllv_five_bits :
    got (stepOn 0x00221804#32 (with12 0x24#32 1#32)) (·.reg 3#5) = some 0x10#32 := by decide

theorem test_srlv :
    got (stepOn 0x00221806#32 (with12 0x1F#32 0x80000000#32)) (·.reg 3#5) = some 1#32 := by decide

theorem test_srav :
    got (stepOn 0x00221807#32 (with12 0x1F#32 0x80000000#32)) (·.reg 3#5) = some 0xFFFFFFFF#32 := by decide

/-! ### Multiply, divide, HI and LO (B.3) -/

/-- HI and LO. -/
def hiLo (t : State) : Word × Word := (t.hi, t.lo)

theorem test_mult_signed :
    got (stepOn 0x00220018#32 (with12 0xFFFFFFFE#32 3#32)) hiLo = some (0xFFFFFFFF#32, 0xFFFFFFFA#32) := by decide

theorem test_mult_min :
    got (stepOn 0x00220018#32 (with12 0x80000000#32 0x80000000#32)) hiLo = some (0x40000000#32, 0#32) := by decide

theorem test_multu :
    got (stepOn 0x00220019#32 (with12 0xFFFFFFFF#32 0xFFFFFFFF#32)) hiLo
      = some (0xFFFFFFFE#32, 0x00000001#32) := by decide

theorem test_div_negative_dividend :
    got (stepOn 0x0022001A#32 (with12 0xFFFFFFF9#32 2#32)) hiLo = some (0xFFFFFFFF#32, 0xFFFFFFFD#32) := by decide

theorem test_div_negative_divisor :
    got (stepOn 0x0022001A#32 (with12 7#32 0xFFFFFFFE#32)) hiLo = some (1#32, 0xFFFFFFFD#32) := by decide

theorem test_divu :
    got (stepOn 0x0022001B#32 (with12 0xFFFFFFF9#32 2#32)) hiLo = some (1#32, 0x7FFFFFFC#32) := by decide

theorem test_divu_largest_divisor :
    got (stepOn 0x0022001B#32 (with12 0x80000000#32 0xFFFFFFFF#32)) hiLo = some (0x80000000#32, 0#32) := by decide

theorem test_mfhi :
    got (stepOn 0x00001810#32 { base with hi := 7#32, lo := 8#32 }) (·.reg 3#5) = some 7#32 := by decide

theorem test_mthi : got (stepOn 0x00200011#32 (with12 7#32 0#32)) hiLo = some (7#32, 0#32) := by decide

theorem test_mflo :
    got (stepOn 0x00001812#32 { base with hi := 7#32, lo := 8#32 }) (·.reg 3#5) = some 8#32 := by decide

theorem test_mtlo : got (stepOn 0x00200013#32 (with12 7#32 0#32)) hiLo = some (0#32, 7#32) := by decide

/-! ### Loads and stores (B.4) -/

/-- The word 0x11223344 at 0x20002000, $1 = 0x20002000, $2 = b. -/
def memLe (b : Word) : State := putWord 0x20002000 0x11223344#32 (with12 0x20002000#32 b)

/-- The same on a big-endian machine. -/
def memBe (b : Word) : State := putWord 0x20002000 0x11223344#32 (big (with12 0x20002000#32 b))

/-- The bytes 11 22 33 44 55 66 77 88 at 0x20002000, $1 = 0x20002001, $2 = b, little-endian. -/
def oddLe (b : Word) : State :=
  putWord 0x20002004 0x88776655#32 (putWord 0x20002000 0x44332211#32 (with12 0x20002001#32 b))

/-- The same bytes on a big-endian machine. -/
def oddBe (b : Word) : State :=
  putWord 0x20002004 0x55667788#32 (putWord 0x20002000 0x11223344#32 (big (with12 0x20002001#32 b)))

/-- The word at 0x20002000. -/
def wordThere (t : State) : Word := t.mem.readWord t.params.bigEndian 0x20002000

theorem test_lb : got (stepOn 0x80230000#32 (memLe 0#32)) (·.ldelay) = some (some (3#5, 0x44#32)) := by decide

theorem test_lb_sign :
    got (stepOn 0x80230000#32 (putWord 0x20002000 0x80#32 (memLe 0#32))) (·.ldelay)
      = some (some (3#5, 0xFFFFFF80#32)) := by decide

theorem test_lbu_big : got (stepOn 0x90240003#32 (memBe 0#32)) (·.ldelay) = some (some (4#5, 0x44#32)) := by decide

theorem test_lh : got (stepOn 0x84250002#32 (memLe 0#32)) (·.ldelay) = some (some (5#5, 0x1122#32)) := by decide

theorem test_lh_misaligned :
    got (stepOn 0x84250001#32 (memLe 0#32)) (fun t => (t.cause, t.badVAddr, t.ldelay))
      = some (0x00000010#32, 0x20002001#32, none) := by decide

theorem test_lhu_big : got (stepOn 0x94250002#32 (memBe 0#32)) (·.ldelay) = some (some (5#5, 0x3344#32)) := by decide

theorem test_lw : got (stepOn 0x8C260000#32 (memBe 0#32)) (·.ldelay) = some (some (6#5, 0x11223344#32)) := by decide

/-- `lw $2,0($1)` with x[1] = 0x10000000 in user-mode (R89). -/
theorem test_lw_user_range :
    got (stepOn 0x8C220000#32 { with12 0x10000000#32 0#32 with status := 0x10400002#32 })
      (fun t => (t.cause, t.badVAddr, t.status)) = some (0x10#32, 0x10000000#32, 0x10400008#32) := by decide

theorem test_sb : got (stepOn 0xA0220001#32 (memLe 0xAB#32)) wordThere = some 0x1122AB44#32 := by decide

theorem test_sb_big : got (stepOn 0xA0220001#32 (memBe 0xAB#32)) wordThere = some 0x11AB3344#32 := by decide

theorem test_sh_big : got (stepOn 0xA4220002#32 (memBe 0xAABB#32)) wordThere = some 0x1122AABB#32 := by decide

theorem test_sh_misaligned :
    got (stepOn 0xA4260001#32 (memLe 0#32)) (fun t => (t.cause, t.badVAddr)) = some (0x14#32, 0x20002001#32) := by
  decide

theorem test_sw : got (stepOn 0xAC220000#32 (memBe 0xCAFEBABE#32)) wordThere = some 0xCAFEBABE#32 := by decide

/-- A store to the execution ROM: DBE, BadVAddr unchanged (R91, R353). -/
theorem test_sw_to_rom :
    got (stepOn 0xAC220000#32 { with12 0#32 5#32 with badVAddr := 9#32 })
      (fun t => (t.cause, t.badVAddr, t.mem.read 0)) = some (0x1C#32, 9#32, 0#8) := by decide

theorem test_lwl : got (stepOn 0x88220000#32 (oddLe 0xDEADBEEF#32)) (·.ldelay)
    = some (some (2#5, 0x2211BEEF#32)) := by decide

theorem test_lwl_big : got (stepOn 0x88220003#32 (oddBe 0xDE443322#32)) (·.ldelay)
    = some (some (2#5, 0x55667788#32)) := by decide

theorem test_lwr : got (stepOn 0x98220000#32 (oddLe 0xDEADBEEF#32)) (·.ldelay)
    = some (some (2#5, 0xDE443322#32)) := by decide

/-- The pending value of the register is merged into (R236, R237). -/
theorem test_lwr_big_pending :
    got (stepOn 0x98220000#32 { oddBe 5#32 with ldelay := some (2#5, 0xDEADBEEF#32) }) (·.ldelay)
      = some (some (2#5, 0xDEAD1122#32)) := by decide

theorem test_swl : got (stepOn 0xA8220000#32 (oddLe 0xAABBCCDD#32)) wordThere = some 0x4433AABB#32 := by decide

theorem test_swl_big : got (stepOn 0xA8220000#32 (oddBe 0xAABBCCDD#32)) wordThere = some 0x11AABBCC#32 := by decide

theorem test_swr : got (stepOn 0xB8220000#32 (oddLe 0xAABBCCDD#32)) wordThere = some 0xBBCCDD11#32 := by decide

/-- By R239's formula, x[15:0] || W[15:0]; the table B.4 prints another word here (log entry 3). -/
theorem test_swr_big : got (stepOn 0xB8220000#32 (oddBe 0xAABBCCDD#32)) wordThere = some 0xCCDD3344#32 := by decide

/-- Sub-word access to the bus area: refused (R92). -/
theorem test_lb_bus_refused :
    refusal (stepOn 0x80220000#32 (with12 0x10000020#32 0#32)) = some .subWordDeviceAccess := by decide

/-- A later write wins over a pending load (R226). -/
theorem test_pending_load_dropped :
    got (stepOn 0x24060005#32 { base with ldelay := some (6#5, 7#32) }) (fun t => (t.reg 6#5, t.ldelay))
      = some (5#32, none) := by decide

/-- Two loads in a row into one register: the first value is dropped (R226). -/
theorem test_pending_load_replaced :
    got (stepOn 0x8C260000#32 { memLe 0#32 with ldelay := some (6#5, 7#32) }) (fun t => (t.reg 6#5, t.ldelay))
      = some (0#32, some (6#5, 0x11223344#32)) := by decide

/-! ### Jumps and branches (B.5) -/

theorem test_j : got (stepOn 0x08000410#32 base) flow = some (0x20001004#32, 0x20001040#32, 0#32) := by decide

/-- The region bits come from A + 4 (R256). -/
theorem test_j_region :
    got (exec (.j 0#26) { base with pc := 0x2FFFFFFC#32, npc := 0x30000000#32 }) flow
      = some (0x30000000#32, 0x30000000#32, 0#32) := by decide

theorem test_jal :
    got (stepOn 0x0C000410#32 base) flow = some (0x20001004#32, 0x20001040#32, 0x20001008#32) := by decide

theorem test_jr :
    got (stepOn 0x03E00008#32 { base with gpr := base.gpr.set 31 0x20001008#32 }) flow
      = some (0x20001004#32, 0x20001008#32, 0x20001008#32) := by decide

theorem test_jalr :
    got (stepOn 0x0320F809#32 { base with gpr := base.gpr.set 25 0x20001100#32 }) flow
      = some (0x20001004#32, 0x20001100#32, 0x20001008#32) := by decide

theorem test_beq_taken :
    got (stepOn 0x10220003#32 (with12 4#32 4#32)) flow = some (0x20001004#32, 0x20001010#32, 0#32) := by decide

theorem test_beq_not_taken :
    got (stepOn 0x10220003#32 (with12 4#32 5#32)) (fun t => (t.pc, t.npc, t.inslot))
      = some (0x20001004#32, 0x20001008#32, true) := by decide

theorem test_bne_backward :
    got (stepOn 0x1420FFFD#32 (with12 1#32 0#32)) flow = some (0x20001004#32, 0x20000FF8#32, 0#32) := by decide

theorem test_blez :
    got (stepOn 0x18200003#32 (with12 0x80000000#32 0#32)) flow
      = some (0x20001004#32, 0x20001010#32, 0#32) := by decide

theorem test_bgtz_zero :
    got (stepOn 0x1C200003#32 (with12 0#32 0#32)) flow = some (0x20001004#32, 0x20001008#32, 0#32) := by decide

theorem test_bltz :
    got (stepOn 0x04200003#32 (with12 0xFFFFFFFF#32 0#32)) flow
      = some (0x20001004#32, 0x20001010#32, 0#32) := by decide

theorem test_bgez_zero :
    got (stepOn 0x04210003#32 (with12 0#32 0#32)) flow = some (0x20001004#32, 0x20001010#32, 0#32) := by decide

theorem test_bltzal_links_untaken :
    got (stepOn 0x04300003#32 (with12 1#32 0#32)) flow
      = some (0x20001004#32, 0x20001008#32, 0x20001008#32) := by decide

theorem test_bgezal :
    got (stepOn 0x04310003#32 (with12 1#32 0#32)) flow
      = some (0x20001004#32, 0x20001010#32, 0x20001008#32) := by decide

theorem test_branch_in_slot_refused :
    refusal (stepOn 0x10220003#32 { base with inslot := true }) = some .branchInDelaySlot := by decide

/-! ### System instructions (B.6, B.8) -/

/-- `syscall` at 0x80000100, user-mode, Status = 1300FF0F (B.8). -/
theorem test_syscall :
    got (exec (.syscall 0#20) { base with pc := 0x80000100#32, status := 0x1300FF0F#32 }) entry
      = some (0x80000100#32, 0x00000020#32, 0x1600FF3C#32, 0x00000080#32) := by decide

theorem test_break :
    got (exec (.brk 5#20) { base with pc := 0x80000100#32, status := 0x1300FF0F#32 }) entry
      = some (0x80000100#32, 0x00000024#32, 0x1600FF3C#32, 0x00000080#32) := by decide

/-- Overflow in a delay slot: EPC the branch, BD set (B.8). -/
theorem test_entry_in_slot :
    got (stepOn 0x00221820#32 { with12 0x7FFFFFFF#32 1#32 with
        pc := 0x2000100C#32, npc := 0x20002000#32, inslot := true }) entry
      = some (0x20001008#32, 0x80000030#32, 0x10400000#32, 0x1FC00180#32) := by decide

/-- A load pending at a SYSCALL reaches its register (B.4). -/
theorem test_entry_lands_load :
    got (stepOn 0x0000000C#32 { base with ldelay := some (6#5, 7#32) }) (fun t => (t.reg 6#5, t.ldelay))
      = some (7#32, none) := by decide

theorem test_mfc0_status :
    got (stepOn 0x40026000#32 base) (·.ldelay) = some (some (2#5, 0x10400000#32)) := by decide

theorem test_mfc0_no_register : refusal (stepOn 0x40021800#32 base) = some .noSuchCp0Register := by decide

theorem test_mtc0_cause :
    got (stepOn 0x40826800#32 { with12 0#32 0xFFFFFFFF#32 with cause := 0x30#32 }) (·.cause)
      = some 0x330#32 := by decide

theorem test_mtc0_index :
    got (stepOn 0x40820000#32 (with12 0#32 0x80000300#32)) (·.index) = some 0x300#32 := by decide

theorem test_mtc0_user_mode :
    got (stepOn 0x40826000#32 { with12 0#32 5#32 with status := 0x0000FF02#32 }) entry
      = some (0x20001000#32, 0x0000002C#32, 0x0000FF08#32, 0x00000080#32) := by decide

/-- TLB[3] = (80000040, lo), EntryHi of ASID 1, VM on, BEV = 0, $1 = 0x80000ABC (B.7). -/
def tlb3 (lo : Word) : State :=
  { base with
    tlb := base.tlb.set 3 { hi := 0x80000040#32, lo := lo }
    entryHi := 0x00000040#32, index := 0x300#32, status := 0x11000000#32
    gpr := (base.gpr.set 1 0x80000ABC#32).set 2 0xCAFE#32 }

theorem test_tlbwi :
    got (stepOn 0x42000002#32 { base with
        index := 0x300#32, entryHi := 0x80000040#32, entryLo := 0x20010600#32 }) (·.tlbAt 3)
      = some { hi := 0x80000040#32, lo := 0x20010600#32 } := by decide

theorem test_tlbwi_out_of_range :
    refusal (stepOn 0x42000002#32 { base with index := 0x1000#32 }) = some .tlbIndexOutOfRange := by decide

/-- Random is 15 at reset and 14 after the step's tick (R56, R480). -/
theorem test_tlbwr :
    got (stepOn 0x42000006#32 { base with entryHi := 0x80001040#32, entryLo := 0x20011600#32 }) (·.tlbAt 14)
      = some { hi := 0x80001040#32, lo := 0x20011600#32 } := by decide

theorem test_tlbr :
    got (exec .tlbr { tlb3 0x20010600#32 with entryHi := 0x80#32 }) (fun t => (t.entryHi, t.entryLo))
      = some (0x80000040#32, 0x20010600#32) := by decide

theorem test_tlbclr :
    got (exec .tlbclr { tlb3 0x20010600#32 with tlb := (tlb3 7#32).tlb.set 0 { hi := 1#32, lo := 2#32 } })
      (fun t => (t.tlbAt 0, t.tlbAt 3))
      = some ({ hi := 1#32, lo := 2#32 }, { hi := 0#32, lo := 0#32 }) := by decide

theorem test_tlbp_match :
    got (exec .tlbp { tlb3 0x20010600#32 with entryHi := 0x80000040#32, index := 0#32 }) (·.index)
      = some 0x300#32 := by decide

/-- The entry of another ASID does not match (B.6). -/
theorem test_tlbp_other_asid :
    ({ tlb3 0x20010600#32 with entryHi := 0x80000080#32 } : State).tlbLookup 0x80000#20 = none
      ∧ ({ tlb3 0x20010700#32 with entryHi := 0x80000080#32 } : State).tlbLookup 0x80000#20 = some 3 := by decide

theorem test_rfe :
    got (stepOn 0x42000010#32 { base with status := 0x1000FF3C#32 }) (·.status) = some 0x1000FF3F#32 := by decide

/-- The worked example of R290. -/
theorem test_rfe_vm :
    got (exec .rfe { base with status := 0x1600FF3C#32 }) (·.status) = some 0x1700FF3F#32 := by decide

theorem test_coprocessor_loads :
    got (stepOn 0xC4200000#32 base) (·.cause) = some 0x1000002C#32
      ∧ got (stepOn 0xC8200000#32 base) (·.cause) = some 0x2000002C#32
      ∧ got (stepOn 0xCC200000#32 base) (·.cause) = some 0x3000002C#32 := by decide

theorem test_coprocessor_stores :
    got (stepOn 0xE4200000#32 base) (·.cause) = some 0x1000002C#32
      ∧ got (stepOn 0xE8200000#32 base) (·.cause) = some 0x2000002C#32
      ∧ got (stepOn 0xEC200000#32 base) (·.cause) = some 0x3000002C#32 := by decide

theorem test_coprocessor_operations :
    got (stepOn 0x46020800#32 base) (·.cause) = some 0x1000002C#32
      ∧ got (stepOn 0x4A000000#32 base) (·.cause) = some 0x2000002C#32
      ∧ got (stepOn 0x4E000000#32 base) (·.cause) = some 0x3000002C#32 := by decide

/-! ### Translation (B.7) -/

/-- What a load at $1 comes to: the pending value's address, or code, BadVAddr, EntryHi and pc. -/
def trap (t : State) : Word × Word × Word × Word := (t.cause, t.badVAddr, t.entryHi, t.pc)

theorem test_translate_load :
    (tlb3 0x20010600#32).memRead .load .byte 0x80000ABC#32 = .ok 0#32
      ∧ (tlb3 0x20010600#32).resolve .load 0x80000ABC#32 = .ok 0x20010ABC#32
      ∧ (tlb3 0x20010200#32).resolve .load 0x80000ABC#32 = .ok 0x20010ABC#32 := by decide

theorem test_translate_mod :
    got (exec (.sw 2#5 1#5 0#16) (tlb3 0x20010200#32)) trap
      = some (0x04#32, 0x80000ABC#32, 0x80000040#32, 0x80#32) := by decide

theorem test_translate_invalid :
    got (exec (.lw 2#5 1#5 0#16) (tlb3 0x20010400#32)) trap
        = some (0x08#32, 0x80000ABC#32, 0x80000040#32, 0x80#32)
      ∧ got (exec (.sw 2#5 1#5 0#16) (tlb3 0x20010000#32)) trap
        = some (0x0C#32, 0x80000ABC#32, 0x80000040#32, 0x80#32) := by decide

theorem test_translate_refill :
    got (exec (.lw 2#5 1#5 0x544#16) (tlb3 0x20010600#32)) trap
      = some (0x08#32, 0x80001000#32, 0x80001040#32, 0#32) := by decide

theorem test_translate_highest :
    ({ tlb3 0x20010600#32 with
      tlb := (tlb3 0x20010600#32).tlb.set 9 { hi := 0x80000040#32, lo := 0x20020600#32 } } : State).resolve
      .load 0x80000ABC#32 = .ok 0x20020ABC#32 := by decide

/-- The fetch after a `jr` to an odd address (R254). -/
theorem test_fetch_misaligned :
    got (step { base with pc := 0x20001002#32 }) (fun t => (t.epc, t.badVAddr, t.cause))
      = some (0x20001002#32, 0x20001002#32, 0x10#32) := by decide

/-- A fetch at RAMTOP: IBE (B.8). -/
theorem test_fetch_past_ram :
    got (step { base with pc := 0x20100000#32, badVAddr := 9#32 }) (fun t => (t.epc, t.badVAddr, t.cause))
      = some (0x20100000#32, 9#32, 0x18#32) := by decide

/-! ### Clocks, interrupts and devices (B.9, C.4) -/

/-- The store of the Interval Timer and the clocks of one step. -/
theorem test_timer_store :
    got (stepOn 0xAC220020#32 (with12 0x10000000#32 2#32)) (fun t => (t.timer, t.tod, t.timerPending))
      = some (2#32, 1#64, false) := by decide

/-- The transition raises line 2 and the interrupt is taken in that very step (C.4). -/
theorem test_timer_interrupt :
    got (step { base with timer := 0#32, status := 0x10400401#32 }) (fun t => (t.epc, t.causeRead, t.status, t.pc))
      = some (0x20001000#32, 0x00000400#32, 0x10400404#32, 0x1FC00180#32) := by decide

/-- DATA1 of disk 0 (R406). -/
theorem test_disk_geometry :
    got (stepOn 0x8C22005C#32 (with12 0x10000000#32 0#32)) (·.ldelay) = some (some (2#5, 0x00200208#32)) := by
  decide

/-- PRINTCHR makes the printer busy at once (R396); an unknown command is an error (R400). -/
theorem test_printer_command :
    (base.writeDevice 6 0 1 2#32).readDevice 6 0 0 = 3#32
      ∧ (base.writeDevice 6 0 1 9#32).readDevice 6 0 0 = 2#32
      ∧ (base.writeDevice 6 0 1 9#32).causeRead = 0x4000#32 := by decide

/-- An operation at its last step, accepted with these words. -/
def lastOf (command data0 : Word) : Busy :=
  { command := command, data0 := data0, elapsed := 1, total := 2, stamp := 0 }

/-- Terminal 0 transmits 'A' (R430). -/
theorem test_terminal_transmit :
    let k := (base.writeDevice 7 0 3 0x4102#32).terminals[0]
    let k' : Terminal := { k with transm := { k.transm with busy := some (lastOf 0x4102#32 0#32) } }
    (k'.transmTick 0 0).transm.status = 0x4105#32 ∧ (k'.transmTick 0 0).output = [0x41#8] := by decide

/-- Tape markers of a cartridge of one file of two blocks (R416, B.9). -/
theorem test_tape_markers :
    let b := [{ data := [], endsFile := false }, { data := [], endsFile := true : TapeBlock }]
    markerCode b 0 = 3#32 ∧ markerCode b 1 = 2#32 ∧ markerCode b 2 = 0#32 := by decide

/-- A disk 0 whose boom is at cylinder 5, in the last step of a command. -/
def diskAt (command data0 : Word) : State :=
  { base with disks := setDev base.disks 0 { base.disks[0] with
      boom := 5
      reg := { base.disks[0].reg with
        status := 3#32, command := command, data0 := data0, busy := some (lastOf command data0) } } }

/-- The host's edit of DATA0 of a busy disk leaves the running transfer where it was accepted (R408, log 12). -/
theorem test_busy_disk_keeps_its_words :
    let t := (diskAt 0x303#32 0x20005000#32).hostAct (.setWord 0x10000058#32 0x20009000#32)
    t.disks[0].reg.data0 = 0x20009000#32 ∧ (t.diskTick 0).disks[0].reg.status = 1#32
      ∧ t.disks[0].reg.busy = some (lastOf 0x303#32 0x20005000#32) := by decide

/-- SEEKCYL 5, SEEKCYL 32, READBLK with head 2, READBLK to a bad address (B.9). -/
theorem test_disk_outcomes :
    ((diskAt 0x502#32 0#32).diskTick 0).disks[0].reg.status = 1#32
      ∧ ((diskAt 0x502#32 0#32).diskTick 0).disks[0].boom = 5
      ∧ ((diskAt 0x2002#32 0#32).diskTick 0).disks[0].reg.status = 4#32 := by decide

/-! ### The ROM contract (C.5, B.7) -/

/-- Status and the service codes of C.5: a SYSCALL taken to the ROM-Excpt handler. -/
def c5 : State :=
  let areas := putWord 0x200003DC 0x10000000#32 (putWord 0x200003E0 0x20001100#32
    (putWord 0x20000444 0x20001100#32 (putWord 0x2000044C 0x20003000#32 base)))
  { areas with status := 0x10000000#32, cause := 0x20#32, epc := 0x20001004#32, pc := 0x80#32, npc := 0x84#32
               gpr := areas.gpr.set 4 7#32 }

theorem test_rom_passes_syscall_up :
    got (romExcpt c5) (fun t => (t.pc, t.reg 25#5, t.reg 29#5))
        = some (0x20001100#32, 0x20001100#32, 0x20003000#32)
      ∧ got (romExcpt c5) (fun t => (t.mem.readWord false 0x2000034C, t.mem.readWord false 0x20000354))
        = some (0x20#32, 0x20001004#32)
      ∧ got (romExcpt c5) (fun t => t.mem.readWord false 0x20000364) = some 7#32 := by decide +kernel

/-- A BREAK of kernel code with FORK's code in a0, IEp as given: EntryHi 0x40, Status 0x10000000, pc 0x20002000, the
state at 0x20004000. -/
def inFork (status : Word) : State :=
  let m := putWord 0x20004084 9#32 base
  { m with status := status, cause := 0x24#32, pc := 0x80#32, npc := 0x84#32
           gpr := ((((m.gpr.set 4 2#32).set 5 0x40#32).set 6 0x10000004#32).set 7 0x20002000#32).set 8 0x20004000#32 }

/-- FORK with interrupts disabled is one macro-step; with them enabled its last group comes later (R314, D32). -/
theorem test_rom_fork :
    got (romExcpt (inFork 0x10000000#32)) (fun t => (t.pc, t.npc, t.hi, t.inslot))
        = some (0x20002000#32, 0x20002004#32, 9#32, false)
      ∧ got (romExcpt (inFork 0x10000004#32)) (fun t => (t.hi, t.forkHeld))
        = some (9#32,
          { entryHi := 0x40#32, cause := 0#32, status := 0x10000004#32, pc := 0x20002000#32 }) := by decide +kernel

/-- LDST reads a state wherever a read is no Bus Error: from ROM into the bus area, but not past it (R313, R92). -/
theorem test_state_readable :
    (base.stateReadable 0x10000000#32 ∧ base.stateReadable 0x10000244#32) ∧ base.stateReadable 0x10000248#32 = false
      ∧ base.stateReadable 0x20000002#32 = false := by decide

/-- COREBOOT without a word at 0x20001004 (R93, R321, R455). -/
theorem test_boot_program_missing :
    refusal (romBoot { base with params := { base.params with ramSize := 4096 } }) = some .bootProgramMissing := by
  decide

/-- Disk 0, tape 0 with a cartridge of one block, and printer 0, idle. -/
def loaded : State := base.changeTape 0 (some [{ data := [], endsFile := true }])

/-- The host's DATA1 is what a load shows: a disk's and a printer's from then on, a tape's until a RESET or the end of
an operation writes the marker anew (R485, R416, R418, log 12). -/
theorem test_host_data1 :
    let edited := [(3, 0x1000005C#32), (4, 0x100000DC#32), (6, 0x100001DC#32)].map fun p : Nat × Word =>
      (loaded.hostAct (.setWord p.2 9#32)).readDevice p.1 0 3
    let tape := loaded.hostAct (.setWord 0x100000DC#32 9#32)
    edited = [9#32, 9#32, 9#32] ∧ loaded.readDevice 4 0 3 = 3#32
      ∧ (tape.writeDevice 4 0 1 1#32).readDevice 4 0 3 = 9#32 ∧ (tape.writeDevice 4 0 1 0#32).readDevice 4 0 3 = 3#32
      ∧ (tape.endTape 0 1#32 1).readDevice 4 0 3 = 0#32 := by decide

/-- A reset with a new file for disk 0 and the same cartridge; without files both stay (R452, R488). -/
theorem test_reset_device_files :
    let t := loaded.hostAct (.reset Params.default [.disk 0 [(7, 0x5A#8)]])
    t.disks[0].image.read 7 = 0x5A#8 ∧ t.tapes[0].cartridge = loaded.tapes[0].cartridge
      ∧ ((t.hostAct (.reset Params.default [])).disks[0].image.read 7 = 0x5A#8
        ∧ (t.hostAct (.reset Params.default [.tape 0 none])).readDevice 4 0 3 = 0#32) := by decide

/-- The host's PC is where the next instruction is fetched; nextPC is as it was (R6, R28, log 13). -/
theorem test_host_pc :
    got (step { putWord 0x20003000 0x2402002A#32 base with inputs := [[.setPc 0x20003000#32]] })
      (fun t => (t.reg 2#5, t.pc, t.npc)) = some (0x2A#32, 0x20001004#32, 0x20001008#32) := by decide

/-- The host's succPC is where the instruction after the next is (R485, R250). -/
theorem test_host_succ_pc :
    got (stepOn 0x2402002A#32 { base with inputs := [[.setSuccPc 0x20003000#32]] }) (fun t => (t.pc, t.npc, t.succPc))
      = some (0x20001004#32, 0x20003000#32, none) := by decide

/-- The page table of B.7, with `hdr` its first word. -/
def pageTable (hdr : Word) : State :=
  let m := putWord 0x20000510 0x20003000#32 (putWord 0x20003000 hdr (putWord 0x20003004 0x80001040#32
    (putWord 0x20003008 0x20011600#32 (putWord 0x2000300C 0x80000040#32 (putWord 0x20003010 0x20010600#32 base)))))
  { m with badVAddr := 0x80000ABC#32, entryHi := 0x80000040#32, cause := 8#32, status := 0x10000004#32
           epc := 0x20001000#32, pc := 0#32, npc := 4#32 }

theorem test_rom_refill :
    got (romRefill (pageTable 0x2A000002#32)) (fun t => (t.entryHi, t.entryLo, t.pc, t.status))
      = some (0x80000040#32, 0x20010600#32, 0x20001000#32, 0x10000001#32) := by decide +kernel

/-- Bad-PgTbl and PTE-MISS: the codes 13 and 14 only in the stored Cause (R309). -/
theorem test_rom_refill_misses :
    got (romRefill (pageTable 0x2B000002#32)) (fun t => (t.mem.readWord false 0x2000011C, t.cause))
        = some (0x34#32, 8#32)
      ∧ got (romRefill (pageTable 0x2A000001#32)) (fun t => (t.mem.readWord false 0x2000011C, t.cause))
        = some (0x38#32, 8#32) := by decide +kernel

/-! ### Witnesses: the hypotheses of each statement met together, clause by clause -/

/-- `base` about to fetch at an address. -/
def fetchingAt (a : Word) : State := { base with pc := a, npc := a + 4#32 }

/-- `base` after the agents, with the word in place: the state a step from there fetches it in. -/
def fetched (w : Word) (s : State) : State := (putWord s.pc.toNat w s).agents

theorem witness_DecodeOfEncode : tlbclrFunctOk 0x3F#6 = true := by decide

theorem witness_EncodeOfDecode : decode 0x3F#6 0x0022001B#32 = .ok (.divu 1#5 2#5) := by decide

theorem witness_StepRunsDecodedInstruction :
    Fetches (putWord 0x20001000 0x2422FFFF#32 base) (fetched 0x2422FFFF#32 base) 0x2422FFFF#32
      ∧ decode (fetched 0x2422FFFF#32 base).params.tlbclrFunct 0x2422FFFF#32 = .ok (.addiu 2#5 1#5 0xFFFF#16) :=
  ⟨⟨.inl ⟨rfl, rfl⟩, by decide⟩, by decide⟩

/-- A primary opcode, a SPECIAL funct, a REGIMM rt; a COP0 rs, a COP0 funct and SWC0, usable and not. -/
theorem witness_UnassignedOpcodesTrap :
    (Fetches (putWord 0x20001000 0xFC000000#32 base) (fetched 0xFC000000#32 base) 0xFC000000#32
        ∧ opOf 0xFC000000#32 = 0x3F#6)
      ∧ (Fetches (putWord 0x20001000 0x0000003F#32 base) (fetched 0x0000003F#32 base) 0x0000003F#32
        ∧ opOf 0x0000003F#32 = 0x00#6 ∧ functOf 0x0000003F#32 = 0x3F#6)
      ∧ (Fetches (putWord 0x20001000 0x04020000#32 base) (fetched 0x04020000#32 base) 0x04020000#32
        ∧ opOf 0x04020000#32 = 0x01#6 ∧ rtOf 0x04020000#32 = 0x02#5)
      ∧ (Fetches (putWord 0x20001000 0x40200000#32 base) (fetched 0x40200000#32 base) 0x40200000#32
        ∧ (fetched 0x40200000#32 base).cop0Usable = true ∧ opOf 0x40200000#32 = 0x10#6
        ∧ bitAt 0x40200000#32 25 = false ∧ rsOf 0x40200000#32 = 0x01#5)
      ∧ (Fetches (putWord 0x20001000 0x4200003E#32 base) (fetched 0x4200003E#32 base) 0x4200003E#32
        ∧ bitAt 0x4200003E#32 25 = true ∧ functOf 0x4200003E#32 = 0x3E#6
        ∧ (fetched 0x4200003E#32 base).params.tlbclrFunct ≠ 0x3E#6)
      ∧ (Fetches (putWord 0x20001000 0xE0000000#32 { base with status := 2#32 })
          (fetched 0xE0000000#32 { base with status := 2#32 }) 0xE0000000#32
        ∧ (fetched 0xE0000000#32 { base with status := 2#32 }).cop0Usable = false
        ∧ opOf 0xE0000000#32 = 0x38#6) :=
  ⟨⟨⟨.inl ⟨rfl, rfl⟩, by decide⟩, by decide⟩, ⟨⟨.inl ⟨rfl, rfl⟩, by decide⟩, by decide⟩,
    ⟨⟨.inl ⟨rfl, rfl⟩, by decide⟩, by decide⟩, ⟨⟨.inl ⟨rfl, rfl⟩, by decide⟩, by decide⟩,
    ⟨⟨.inl ⟨rfl, rfl⟩, by decide⟩, by decide⟩, ⟨⟨.inl ⟨rfl, rfl⟩, by decide⟩, by decide⟩⟩

theorem witness_OperandReads : ∀ v, (with12 1#32 2#32).ldelay ≠ some (1#5, v) := fun _ h => nomatch h

theorem witness_TrappingArithmeticCompletes :
    (((with12 0x7FFFFFFE#32 1#32).rs 1#5).toInt + ((with12 0x7FFFFFFE#32 1#32).rt 2#5).toInt = 2147483647
        ∧ ((with12 0x80000001#32 1#32).rs 1#5).toInt - ((with12 0x80000001#32 1#32).rt 2#5).toInt = -2147483648)
      ∧ ((with12 0x80000001#32 0#32).rs 1#5).toInt + (0xFFFF#16 : BitVec 16).toInt = -2147483648 := by decide

theorem witness_OverflowTraps :
    (((with12 0x7FFFFFFF#32 1#32).rs 1#5).toInt + ((with12 0x7FFFFFFF#32 1#32).rt 2#5).toInt = 2147483648
        ∧ ((with12 0x80000000#32 1#32).rs 1#5).toInt - ((with12 0x80000000#32 1#32).rt 2#5).toInt = -2147483649)
      ∧ ((with12 0x80000000#32 0#32).rs 1#5).toInt + (0xFFFF#16 : BitVec 16).toInt = -2147483649 := by decide

theorem witness_QuotientAndRemainder :
    (with12 0x80000000#32 1#32).rt 2#5 ≠ 0#32
      ∧ ¬((with12 0x80000000#32 1#32).rs 1#5 = 0x80000000#32
        ∧ (with12 0x80000000#32 1#32).rt 2#5 = 0xFFFFFFFF#32) := by decide

theorem witness_DivisionCornersComplete :
    (with12 7#32 0#32).rt 2#5 = 0#32
      ∧ (with12 0x80000000#32 0xFFFFFFFF#32).rs 1#5 = 0x80000000#32
      ∧ (with12 0x80000000#32 0xFFFFFFFF#32).rt 2#5 = 0xFFFFFFFF#32 := by decide

/-- The last byte, halfword and word of RAM; the first of the execution ROM; the last word of the boot ROM; the
first and the last bus word, bit map word and device word. -/
theorem witness_LoadsFromMemory :
    ((with12 0x200FFFFC#32 0#32).resolve .load ((with12 0x200FFFFC#32 0#32).rs 1#5 + (3#16 : BitVec 16).signExtend 32)
        = .ok 0x200FFFFF#32 ∧ regionOf Params.default 0x200FFFFF#32 1 = .ram)
      ∧ (regionOf Params.default 0x200FFFFE#32 2 = .ram ∧ regionOf Params.default 0x200FFFFC#32 4 = .ram)
      ∧ (base.resolve .load 0#32 = .ok 0#32 ∧ regionOf Params.default 0#32 4 = .execRom)
      ∧ (base.resolve .load 0x1FC00FFC#32 = .ok 0x1FC00FFC#32
        ∧ regionOf Params.default 0x1FC00FFC#32 4 = .bootRom)
      ∧ ([0x10000000#32, 0x10000038#32, 0x1000003C#32, 0x1000004C#32, 0x10000050#32, 0x100002CC#32].all
        fun a => base.resolve .load a = .ok a && regionOf Params.default a 4 = .device) = true
      ∧ ([0x10000001#32, 0x10000002#32, 0x100002CF#32].all
        fun a => base.resolve .load a = .ok a && regionOf Params.default a 1 = .device) = true
      ∧ (base.params.wf = true ∧ (0x10000038, 1#32) ∈ busWords base ∧ 0x1000004C = 0x1000003C + 4 * (7 - 3))
      ∧ (deviceAddr 3 0 0 = 0x10000050 ∧ deviceAddr 7 7 3 = 0x100002CC) := by decide

/-- A tape 0 of two files, the first of two blocks, with the head at marker `p`. -/
def tapeAt (p : Nat) : Tape :=
  let blocks := [false, true, true].map fun ends : Bool => { data := [], endsFile := ends : TapeBlock }
  { base.tapes[0] with cartridge := some blocks, head := p }

/-- Every kind of device word: installed and not; a tape without a cartridge, at TS, EOB, EOF and EOT, and with the
host's word in DATA1. -/
theorem witness_LoadsFromMemory_devices :
    (base.params.tapes.getLsbD 0 = true ∧ base.params.tapes.getLsbD 1 = false
        ∧ base.tapes[0].cartridge = none ∧ base.tapes[0].reg.busy = none ∧ base.tapes[0].reg.data1 = none)
      ∧ ([0, 1, 2, 3].map fun p => (tapeAt p).marker 0 0) = [3#32, 2#32, 1#32, 0#32]
      ∧ (base.tapes[0].reg.hostEdit 3 9#32).data1 = some 9#32
      ∧ (base.params.disks.getLsbD 0 = true ∧ base.params.printers.getLsbD 0 = true
        ∧ base.params.terminals.getLsbD 0 = true) := by decide

/-- A load pending for $6 while an instruction for $7 executes, at a SYSCALL, and at an interrupt. -/
theorem witness_LoadedValueArrives :
    let s : State := { base with ldelay := some (6#5, 7#32) }
    let r : State := { base with ldelay := some (6#5, 7#32), timer := 0#32, status := 0x10400401#32 }
    (written (.addu 7#5 0#5 0#5) ≠ some 6#5 ∧ ∃ t, exec (.addu 7#5 0#5 0#5) s = .next t ∧ t.reg 6#5 = 7#32)
      ∧ (∃ t, raise .sys s = .next t)
      ∧ (AfterAgents r r.agents ∧ r.agents.ldelay = some (6#5, 7#32) ∧ r.agents.params.wf = true
        ∧ r.agents.ended = none ∧ r.agents.interruptTaken = true ∧ ∃ t, step r = .next t) :=
  ⟨⟨by decide, _, rfl, rfl⟩, ⟨_, rfl⟩, .inl ⟨rfl, rfl⟩, by decide, by decide, by decide, by decide, _, rfl⟩

/-- All four byte positions of a word, in both byte orders (B.4 gives their results). -/
theorem witness_UnalignedLoads :
    (oddLe 0#32).resolve .load ((oddLe 0#32).rs 1#5 + (0xFFFF#16 : BitVec 16).signExtend 32) = .ok 0x20002000#32
      ∧ (oddBe 0#32).resolve .load ((oddBe 0#32).rs 1#5 + (2#16 : BitVec 16).signExtend 32) = .ok 0x20002003#32
      ∧ (0x20002000#32 : Word) = BitVec.ofNat 32 ((0x20002003#32 : Word).toNat / 4 * 4)
      ∧ regionOf Params.default 0x20002000#32 4 ∈ [Region.ram, Region.execRom, Region.bootRom] := by decide

theorem witness_StoresToRam :
    (with12 0x200FFFFC#32 0#32).resolve .store ((with12 0x200FFFFC#32 0#32).rs 1#5 + (0#16 : BitVec 16).signExtend 32)
        = .ok 0x200FFFFC#32
      ∧ (regionOf Params.default 0x200FFFFF#32 1 = .ram ∧ regionOf Params.default 0x200FFFFE#32 2 = .ram)
      ∧ regionOf Params.default 0x200FFFFC#32 4 = .ram ∧ regionOf Params.default 0x20000000#32 4 = .ram := by decide

theorem witness_UnalignedStores :
    (oddBe 0#32).resolve .store ((oddBe 0#32).rs 1#5 + (2#16 : BitVec 16).signExtend 32) = .ok 0x20002003#32
      ∧ regionOf Params.default (BitVec.ofNat 32 (0x20002003 / 4 * 4)) 4 = .ram := by decide

/-- A word in three bytes' misalignment, a halfword in one, and the fetch at a misaligned pc. -/
theorem witness_MisalignedAccessesTrap :
    ((with12 0x20002001#32 0#32).rs 1#5 + (0#16 : BitVec 16).signExtend 32 = 0x20002001#32
        ∧ ((loadsOf 3#5 1#5 0#16).map fun i => mayAccess i 0x20002001#32)
          = [true, true, false, false, false, true, true]
        ∧ ((storesOf 3#5 1#5 0#16).map fun i => mayAccess i 0x20002002#32) = [true, true, false, true, true])
      ∧ ReadyToFetch (fetchingAt 0x20001002#32) (fetchingAt 0x20001002#32).agents
      ∧ (fetchingAt 0x20001002#32).agents.pc.toNat % 4 ≠ 0 :=
  ⟨by decide, ⟨.inl ⟨rfl, rfl⟩, by decide⟩, by decide⟩

/-- Below 0x20000000 with VM off, below 0x80000000 with VM on. -/
theorem witness_UserModeRangeTraps :
    (bitAt (0x10400002#32 : Word) 1 = true ∧ bitAt (0x10400002#32 : Word) 24 = false
        ∧ (0x1FFFFFFF#32 : Word).toNat < 0x20000000)
      ∧ (bitAt (0x11400002#32 : Word) 1 = true ∧ bitAt (0x11400002#32 : Word) 24 = true
        ∧ (0x7FFFFFFF#32 : Word).toNat < 0x80000000
        ∧ (with12 0x7FFFFFFF#32 0#32).rs 1#5 + (0#16 : BitVec 16).signExtend 32 = 0x7FFFFFFF#32)
      ∧ ReadyToFetch { fetchingAt 0x1FFFFFFC#32 with status := 0x10400002#32 }
        ({ fetchingAt 0x1FFFFFFC#32 with status := 0x10400002#32 } : State).agents :=
  ⟨by decide, by decide, .inl ⟨rfl, rfl⟩, by decide⟩

/-- The first address of each hole, and both ROMs for a store; VM on, below 0x20000000 and in a frame that is no memory;
user-mode beyond RAMTOP; a fetch there. -/
theorem witness_BusErrorsTrap :
    let user : State := { base with status := 0x10400002#32 }
    (base.params.wf = true ∧ base.comesTo true 0x20100000#32 0x20100000#32
        ∧ base.comesTo false 0x20100000#32 0x20100000#32)
      ∧ ((tlb3 0x30010600#32).comesTo false 0x1000#32 0x1000#32
        ∧ (tlb3 0x30010600#32).comesTo true 0x80000ABC#32 0x30010ABC#32)
      ∧ user.comesTo false 0x20100000#32 0x20100000#32
      ∧ ([0x1000#32, 0x100002D0#32, 0x1FC01000#32, 0x20100000#32, 0x30010ABC#32].map fun a =>
          regionOf base.params a 4) = [.absent, .absent, .absent, .absent, .absent]
      ∧ notInstalled base.params 0x30010ABC#32
      ∧ (0 < base.params.romSize ∧ 0x1FC00FFC < 0x1FC00000 + base.params.bootSize)
      ∧ ReadyToFetch (fetchingAt 0x20100000#32) (fetchingAt 0x20100000#32).agents :=
  ⟨⟨by decide, .inl (by decide), .inl (by decide)⟩,
    ⟨.inl (by decide), .inr (.inr ⟨by decide, by decide, by decide, 3, by decide⟩)⟩, .inr (.inl (by decide)),
    by decide, by unfold notInstalled; decide, by decide, .inl ⟨rfl, rfl⟩, by decide⟩

/-- Two matching slots, of which the higher-numbered is used; and a page none has. -/
theorem witness_TranslationUsesHighestMatch :
    (tlb3 0x20010600#32).params.wf = true
      ∧ (tlb3 0x20010600#32).tlbLookup (BitVec.extractLsb' 12 20 0x80000ABC#32) = some 3
      ∧ (tlb3 0x20010600#32).tlbLookup (BitVec.extractLsb' 12 20 0x80001000#32) = none := by decide

/-- No match, V = 0, D = 0, and V and D both set. -/
theorem witness_TranslationOutcomes :
    (tlb3 0x20010600#32).tlbLookup (BitVec.extractLsb' 12 20 0x80001000#32) = none
      ∧ ([0x20010400#32, 0x20010200#32, 0x20010600#32].map fun lo =>
          ((tlb3 lo).tlbLookup (BitVec.extractLsb' 12 20 0x80000ABC#32), bitAt ((tlb3 lo).tlbAt 3).lo 9,
            bitAt ((tlb3 lo).tlbAt 3).lo 10))
        = [(some 3, false, true), (some 3, true, false), (some 3, true, true)] := by decide

/-- A store to a page that is not writable; a fetch from a page no slot has, and from one that is not valid. -/
theorem witness_TranslationExceptionsEnter :
    let missed : State := { tlb3 0x20010200#32 with pc := 0x80001000#32, npc := 0x80001004#32 }
    let invalid : State := { tlb3 0x20010400#32 with pc := 0x80000ABC#32, npc := 0x80000AC0#32 }
    ((tlb3 0x20010200#32).rs 1#5 + (0#16 : BitVec 16).signExtend 32 = 0x80000ABC#32
        ∧ bitAt (tlb3 0x20010200#32).status 24 = true ∧ bitAt (tlb3 0x20010200#32).status 1 = false
        ∧ 0x20000000 ≤ (0x80000ABC#32 : Word).toNat)
      ∧ (ReadyToFetch missed missed.agents
        ∧ missed.agents.tlbLookup (BitVec.extractLsb' 12 20 0x80001000#32) = none)
      ∧ ReadyToFetch invalid invalid.agents
      ∧ invalid.agents.tlbLookup (BitVec.extractLsb' 12 20 0x80000ABC#32) = some 3
      ∧ bitAt (invalid.agents.tlbAt 3).lo 9 = false :=
  ⟨by decide, ⟨⟨.inl ⟨rfl, rfl⟩, by decide⟩, by decide⟩, ⟨.inl ⟨rfl, rfl⟩, by decide⟩, by decide, by decide⟩

theorem witness_JumpResults :
    base.inslot = false
      ∧ (0x20001040#32 : Word) = BitVec.ofNat 32 ((base.pc + 4#32).toNat / 2 ^ 28 * 2 ^ 28 + 0x410 * 4) := by decide

theorem witness_BranchResults :
    base.inslot = false
      ∧ (0x20000FF8#32 : Word) = base.pc + 4#32 + BitVec.ofInt 32 ((0xFFFD#16 : BitVec 16).toInt * 4) := by decide

theorem witness_BranchInDelaySlotRefused : ({ base with inslot := true } : State).inslot = true := rfl

theorem witness_PrivilegedInstructionsTrap :
    bitAt (0x0000FF02#32 : Word) 1 = true ∧ bitAt (0x0000FF02#32 : Word) 28 = false := by decide

/-- With an enabled line pending, and without. -/
theorem witness_InterruptTest :
    (AfterAgents { base with timer := 0#32, status := 0x10400401#32 }
          ({ base with timer := 0#32, status := 0x10400401#32 } : State).agents
        ∧ ({ base with timer := 0#32, status := 0x10400401#32 } : State).agents.params.wf = true
        ∧ ({ base with timer := 0#32, status := 0x10400401#32 } : State).agents.ended = none
        ∧ ({ base with timer := 0#32, status := 0x10400401#32 } : State).agents.interruptTaken = true)
      ∧ base.agents.interruptTaken = false :=
  ⟨⟨.inl ⟨rfl, rfl⟩, by decide⟩, by decide⟩

/-- Kernel-mode; user-mode with CU[0]; user-mode without. -/
theorem witness_RfePopsStacks :
    base.cop0Usable = true ∧ ({ base with status := 0x10000002#32 } : State).cop0Usable = true
      ∧ ({ base with status := 0x00000002#32 } : State).cop0Usable = false := by decide

/-- The last register of the list, and a number between two. -/
theorem witness_Mfc0Reads :
    base.cop0Usable = true ∧ (12#5, base.status) ∈ [(12#5, base.status)] ∧ cp0Implemented 15#5 = true
      ∧ cp0Implemented 16#5 = false ∧ cp0Implemented 3#5 = false := by decide

theorem witness_Mtc0Writes :
    base.cop0Usable = true ∧ cp0Implemented 0#5 = true ∧ cp0Implemented 12#5 = true ∧ cp0Implemented 15#5 = true
      ∧ cp0Implemented 11#5 = false := by
  decide

/-- Index at the first and at the last slot, and at the first beyond. -/
theorem witness_TlbWrites :
    base.cop0Usable = true ∧ base.indexIndex.toNat < base.params.tlbSize
      ∧ ({ base with index := 0xF00#32 } : State).indexIndex.toNat = base.params.tlbSize - 1
      ∧ base.params.tlbSize ≤ ({ base with index := 0x1000#32 } : State).indexIndex.toNat := by decide

theorem witness_TlbReadAndClear :
    (tlb3 7#32).cop0Usable = true ∧ (tlb3 7#32).indexIndex.toNat < (tlb3 7#32).params.tlbSize
      ∧ base.params.tlbSize ≤ ({ base with index := 0x1000#32 } : State).indexIndex.toNat := by decide

theorem witness_TlbProbe :
    ((tlb3 7#32).cop0Usable = true ∧ (tlb3 7#32).params.wf = true)
      ∧ ({ tlb3 7#32 with entryHi := 0x80000040#32 } : State).tlbLookup 0x80000#20 = some 3
      ∧ (tlb3 7#32).tlbLookup ((tlb3 7#32).entryHi.extractLsb' 12 20) = none := by decide

/-- Random at 1, where it wraps, and at TLBSIZE-1. -/
theorem witness_RandomCycles :
    (Params.default.wf = true ∧ base.randomIndex.toNat = 15 ∧ base.cop0Usable = true)
      ∧ ({ base with random := 0x100#32 } : State).tick.randomIndex.toNat = 15 := by decide

theorem witness_TimerCountsDown : 2 ≤ (2#32 : Word).toNat ∧ 0 ≤ (0#32 : Word).toNat := by decide

/-- The timer, the first and the last word below the devices, the first and the last device word. -/
theorem witness_BusAreaStores :
    (base.params.wf = true
        ∧ (with12 0x10000000#32 2#32).rs 1#5 + (0x20#16 : BitVec 16).signExtend 32 = 0x10000020#32)
      ∧ ([0x10000020#32, 0x10000000#32, 0x1000004C#32, 0x10000050#32, 0x100002CC#32].all
        fun a => base.resolve .store a = .ok a && regionOf base.params a 4 = .device) = true
      ∧ ([0x10000001#32, 0x10000002#32, 0x100002CF#32].all
        fun a => base.resolve .store a = .ok a && regionOf base.params a 1 = .device) = true
      ∧ deviceAddr 3 0 0 = 0x10000050 ∧ deviceAddr 7 7 3 = 0x100002CC := by decide

theorem witness_EveryStepTicksOnce :
    base.inputs = [] ∧ base.params.romContract = false ∧ ∃ t, step base = .next t := ⟨rfl, rfl, _, rfl⟩

/-- Busy and pending after a COMMAND of each code to the register `reg` of device 0 of a line. -/
def afterCommand (line field : Nat) (reg : State → DevReg) (codes : List Word) : List (Bool × Bool) :=
  codes.map fun v => ((reg (loaded.writeDevice line 0 field v)).busy.isSome,
    (reg (loaded.writeDevice line 0 field v)).pending)

/-- COMMAND at 0, 1, 2, the last code and one more, on each class and both halves of a terminal, all installed and
idle, the tape loaded. -/
theorem witness_CommandProtocol :
    (loaded.params.disks.getLsbD 0 = true ∧ loaded.params.tapes.getLsbD 0 = true
        ∧ loaded.params.printers.getLsbD 0 = true ∧ loaded.params.terminals.getLsbD 0 = true)
      ∧ (loaded.tapes[0].cartridge ≠ none ∧ loaded.tapes[0].reg.busy = none)
      ∧ (loaded.disks[0].reg.busy = none ∧ loaded.printers[0].reg.busy = none)
      ∧ (loaded.terminals[0].recv.busy = none ∧ loaded.terminals[0].transm.busy = none)
      ∧ ([0#32, 1#32, 2#32, 4#32, 5#32].map fun v : Word => v.toNat % 256) = [0, 1, 2, 4, 4 + 1]
      ∧ ([0#32, 1#32, 2#32, 3#32].map fun v : Word => v.toNat % 256) = [0, 1, 2, 2 + 1]
      ∧ (base.tapes[0].cartridge = none ∧ base.tapes[0].reg.busy = none ∧ base.params.tapes.getLsbD 0 = true) := by
  decide

/-- DATA0 takes a word on each class that has it; RESET moves boom and head, ACK does not (R400, R401). -/
theorem test_device_stores :
    let s : State := { loaded with
      disks := setDev loaded.disks 0 { loaded.disks[0] with boom := 5 }
      tapes := setDev loaded.tapes 0 { loaded.tapes[0] with head := 1 } }
    ([3, 4, 6].map fun line => (s.writeDevice line 0 2 9#32).readDevice line 0 2) = [9#32, 9#32, 9#32]
      ∧ ((s.writeDevice 3 0 1 0#32).disks[0].boom = 0 ∧ (s.writeDevice 3 0 1 1#32).disks[0].boom = 5)
      ∧ ((s.writeDevice 4 0 1 0#32).tapes[0].head = 0 ∧ (s.writeDevice 4 0 1 1#32).tapes[0].head = 1)
      ∧ (base.writeDevice 4 0 1 9#32).readDevice 4 0 0 = 1#32 := by decide

/-- What those codes do (R396, R400). -/
theorem test_command_codes :
    let four := [(false, false), (false, false), (true, false), (true, false), (false, true)]
    let two := [(false, false), (false, false), (true, false), (false, true)]
    (afterCommand 3 1 (fun t => t.disks[0].reg) [0#32, 1#32, 2#32, 4#32, 5#32] = four
        ∧ afterCommand 4 1 (fun t => t.tapes[0].reg) [0#32, 1#32, 2#32, 4#32, 5#32] = four)
      ∧ afterCommand 6 1 (fun t => t.printers[0].reg) [0#32, 1#32, 2#32, 3#32] = two
      ∧ afterCommand 7 1 (fun t => t.terminals[0].recv) [0#32, 1#32, 2#32, 3#32] = two
      ∧ afterCommand 7 3 (fun t => t.terminals[0].transm) [0#32, 1#32, 2#32, 3#32] = two := by decide

/-- A printer that took PRINTCHR of 'A' an operation of two steps ago. -/
def printing : Printer :=
  { output := [], reg := { status := 3#32, command := 2#32, data0 := 0x41#32, data1 := none, pending := false, failing := false
                           busy := some { command := 2#32, data0 := 0x41#32, elapsed := 0, total := 2, stamp := 0 } } }

theorem witness_PrinterPrintsCharacter :
    printing.reg.busy = some { command := 2#32, data0 := 0x41#32, elapsed := 0, total := 2, stamp := 0 }
      ∧ printing.reg.failing = false ∧ 0 + 1 + 1 = max 2 (0 + 1) ∧ ((printing.tick 0).tick 0).output = [0x41#8] := by decide

/-- A receiver at its last step, with the buffer given, its failure switch on or off. -/
def receiving (typed : List Byte) (failing : Bool) : Terminal :=
  { base.terminals[0] with
    input := typed
    recv := { base.terminals[0].recv with
      status := 3#32, command := 2#32, failing := failing, busy := some (lastOf 2#32 0#32) } }

/-- Without a character and with one, the failure switch off and on. -/
theorem witness_ReceiverWaitsForInput :
    ((receiving [] false).recv.busy = some (lastOf 2#32 0#32) ∧ (receiving [] false).input = []
        ∧ (receiving [] true).recv.busy = some (lastOf 2#32 0#32) ∧ (receiving [] true).input = [])
      ∧ (lastOf 2#32 0#32).total ≤ (lastOf 2#32 0#32).elapsed + 1
      ∧ ((receiving [0x68#8] false).recv.failing = false
        ∧ ((receiving [0x68#8] false).recvTick 0 0).recv.status = 0x6805#32)
      ∧ (receiving [0x68#8] true).recv.failing = true
      ∧ ((receiving [] true).recvTick 0 0).recv.busy.isSome = true := by decide

/-- A busy device of each kind, both halves of a terminal; and the uninstalled devices of number 1. -/
theorem witness_FrozenDevices :
    (diskAt 3#32 0#32).disks[0].reg.busy ≠ none
      ∧ (setDev base.tapes 0 { base.tapes[0] with reg := { base.tapes[0].reg with busy := some (lastOf 2#32 0#32) } })[0].reg.busy ≠ none
      ∧ (setDev base.printers 0 printing)[0].reg.busy ≠ none
      ∧ (setDev base.terminals 0 (receiving [] false))[0].recv.busy ≠ none
      ∧ (setDev base.terminals 0
          { base.terminals[0] with transm := { base.terminals[0].transm with busy := some (lastOf 2#32 0#32) } })[0].transm.busy ≠ none
      ∧ (base.params.disks.getLsbD 1 = false ∧ base.params.tapes.getLsbD 1 = false)
      ∧ base.params.printers.getLsbD 1 = false ∧ base.params.terminals.getLsbD 1 = false := by decide

/-- Disk 0 in READBLK head 1, sector 3, into 0x20005000, about to run three steps. -/
def reading : State :=
  { base with disks := setDev base.disks 0 { base.disks[0] with
      boom := 5
      reg := { base.disks[0].reg with
        status := 3#32, command := 0x10303#32, data0 := 0x20005000#32
        busy := some { command := 0x10303#32, data0 := 0x20005000#32, elapsed := 0, total := 3, stamp := 0 } } } }

theorem witness_DiskReadTransfersBlock :
    let b : Busy := { command := 0x10303#32, data0 := 0x20005000#32, elapsed := 0, total := 3, stamp := 0 }
    (reading.disks[0].reg.busy = some b ∧ b.elapsed = 0 ∧ b.total = 2 + 1 ∧ reading.disks[0].reg.failing = false)
      ∧ b.command.extractLsb' 0 8 = 3#8
      ∧ ((b.command.extractLsb' 16 8).toNat = 1 ∧ 1 < reading.params.diskGeom[0].maxHead.toNat)
      ∧ ((b.command.extractLsb' 8 8).toNat = 3 ∧ 3 < reading.params.diskGeom[0].maxSect.toNat)
      ∧ (b.data0.toNat % 4 = 0 ∧ 0x20000000 ≤ b.data0.toNat
        ∧ b.data0.toNat + 4096 ≤ 0x20000000 + reading.params.ramSize) := by decide

theorem witness_StepKeepsDeviceProtocol :
    base.devicesSound = true ∧ base.noDeviceEdits = true ∧ ∃ t, step base = .next t :=
  ⟨by decide, by decide, _, rfl⟩

/-- With a core image too. -/
theorem witness_ResetValues :
    Params.default.wf = true ∧ ({ Params.default with loadCore := true, coreFile := [7#8] } : Params).wf = true := by
  decide

theorem witness_ResetMeetsInvariant : Media.empty.ok = true := by decide

theorem witness_StepKeepsInvariant : base.inv = true ∧ ∃ t, step base = .next t := ⟨by decide, _, rfl⟩

theorem witness_RomNeverChanges : base.inputs = [] ∧ ∃ t, step base = .next t := ⟨rfl, _, rfl⟩

/-- User-mode, CU[0] = 0: a step that goes on, and one that traps. -/
theorem witness_UserModeIsConfined :
    ({ base with status := 0x00400002#32 } : State).inputs = []
      ∧ (bitAt (0x00400002#32 : Word) 1 = true ∧ bitAt (0x00400002#32 : Word) 28 = false)
      ∧ got (step { base with status := 0x00400002#32 }) (·.status) = some 0x00400002#32
      ∧ got (stepOn 0x42000010#32 { base with status := 0x00400002#32 }) (·.status) = some 0x00400008#32 := by decide

/-- `c5`, and a step that comes to fetch at 0x80 at level 2. -/
theorem witness_RomPassesSyscallUp :
    let r : State := { c5 with params := { c5.params with romContract := true } }
    (c5.params.wf = true ∧ c5.cause.extractLsb' 2 5 = 8#5)
      ∧ ReadyToFetch r r.agents
      ∧ (r.agents.contractFetch = true ∧ r.agents.romEntry = true ∧ r.agents.pc = 0x80#32) :=
  ⟨by decide, ⟨.inl ⟨rfl, rfl⟩, by decide⟩, by decide⟩

/-- B.7's table, whose second entry is the first that matches. -/
theorem witness_RomRefillsFromPageTable :
    let s := pageTable 0x2A000002#32
    (s.params.wf = true ∧ (s.mem.readWord false (0x20000500 + 12 * 1 + 4 * 1)).toNat = 0x20003000
        ∧ s.entryHi.extractLsb' 6 6 = 1#6 ∧ bitAt s.badVAddr 31 = true ∧ bitAt s.badVAddr 30 = false)
      ∧ ((s.mem.readWord false 0x20003000).extractLsb' 24 8 = 0x2A#8
        ∧ ((s.mem.readWord false 0x20003000).extractLsb' 0 20).toNat = 2
        ∧ 0x20003000 + 4 + 8 * 2 ≤ 0x20000000 + s.params.ramSize)
      ∧ (s.mem.readWord false (0x20003000 + 4 + 8 * 0)).extractLsb' 12 20 ≠ s.badVAddr.extractLsb' 12 20
      ∧ (s.mem.readWord false (0x20003000 + 4 + 8 * 1)).extractLsb' 12 20 = s.badVAddr.extractLsb' 12 20
      ∧ (s.mem.readWord false (0x20003000 + 4 + 8 * 1)).extractLsb' 6 6 = s.entryHi.extractLsb' 6 6 := by
  decide +kernel

end Sys2Proof.Tests
end

section
/-! SUPPORT. The invariant's two halves, field by field: the storage (R60, R405, R415) and the CPU (R21, R40,
R56, R226). Each operation of the model is said once to keep its half. -/

namespace Sys2Proof.Machine

/-! ### Banks of eight devices -/

theorem deviceBank_getElem {α : Type} (f : DevNo → α) (d : DevNo) : (deviceBank f)[d] = f d := by
  fin_cases d <;> rfl

theorem all_bank {α : Type} (f : α → Bool) (bank : Vector α 8) :
    bank.toList.all f = true ↔ ∀ d : DevNo, f bank[d] = true := by
  rw [List.all_eq_true]
  constructor
  · intro h d
    exact h _ (by simp)
  · intro h x hx
    obtain ⟨i, hi, rfl⟩ := List.mem_iff_getElem.1 hx
    have hi8 : i < 8 := by simpa using hi
    simpa using h ⟨i, hi8⟩

/-- What holds of every device of a bank still does when a device it holds of comes in. -/
theorem forall_setDev {α : Type} {P : α → Prop} {bank : Vector α 8} (h : ∀ e : DevNo, P bank[e]) (d : DevNo)
    {x : α} (hx : P x) (e : DevNo) : P (setDev bank d x)[e] := by
  by_cases hde : d = e
  · subst hde; simpa [setDev] using hx
  · have hv : d.val ≠ e.val := fun hval => hde (Fin.ext hval)
    simpa [setDev, Vector.getElem_set, hv] using h e

/-! ### The storage's half -/

/-- A tape slot the machine can have: empty, or with a cartridge R415 allows. -/
def cartridgeAllowed : Option (List TapeBlock) → Bool
  | some blocks => cartridgeOk blocks
  | none => true

/-- `State.storageOk` part by part (`State.storageOk_iff`). -/
structure State.StorageSound (s : State) : Prop where
  mem : s.mem.wf = true
  images : ∀ d : DevNo, s.disks[d].image.wf = true
  cartridges : ∀ d : DevNo, cartridgeAllowed s.tapes[d].cartridge = true

theorem State.storageOk_iff (s : State) : s.storageOk = true ↔ s.StorageSound := by
  have hsplit : s.storageOk = (s.mem.wf && s.disks.toList.all (fun k => k.image.wf)
      && s.tapes.toList.all fun k => cartridgeAllowed k.cartridge) := rfl
  rw [hsplit, Bool.and_eq_true, Bool.and_eq_true, all_bank, all_bank]
  exact ⟨fun ⟨⟨hm, hd⟩, ht⟩ => ⟨hm, hd, ht⟩, fun ⟨hm, hd, ht⟩ => ⟨⟨hm, hd⟩, ht⟩⟩

theorem Media.ok_iff (m : Media) : m.ok = true ↔
    (∀ d : DevNo, m.diskImages[d].wf = true) ∧ ∀ d : DevNo, cartridgeAllowed m.cartridges[d] = true := by
  have hsplit : m.ok = (m.diskImages.toList.all Memory.wf && m.cartridges.toList.all cartridgeAllowed) := rfl
  rw [hsplit, Bool.and_eq_true, all_bank, all_bank]

theorem State.StorageSound.setMem {s : State} (h : s.StorageSound) {m : Memory} (hm : m.wf = true) :
    ({ s with mem := m } : State).StorageSound := ⟨hm, h.images, h.cartridges⟩

theorem State.StorageSound.setDisk {s : State} (h : s.StorageSound) (d : DevNo) {k : Disk}
    (hk : k.image.wf = true) : ({ s with disks := setDev s.disks d k } : State).StorageSound :=
  ⟨h.mem, forall_setDev (P := fun k : Disk => k.image.wf = true) h.images d hk, h.cartridges⟩

theorem State.StorageSound.setTape {s : State} (h : s.StorageSound) (d : DevNo) {k : Tape}
    (hk : cartridgeAllowed k.cartridge = true) : ({ s with tapes := setDev s.tapes d k } : State).StorageSound :=
  ⟨h.mem, h.images, forall_setDev (P := fun k : Tape => cartridgeAllowed k.cartridge = true) h.cartridges d hk⟩

/-! ### Stores to devices -/

theorem State.StorageSound.writeDisk {s : State} (h : s.StorageSound) (d : DevNo) (f : Nat) (v : Word) :
    (s.writeDisk d f v).StorageSound := by
  unfold State.writeDisk
  split
  · exact h.setDisk d (h.images d)
  · exact h.setDisk d (h.images d)
  · exact h

theorem State.StorageSound.writeTape {s : State} (h : s.StorageSound) (d : DevNo) (f : Nat) (v : Word) :
    (s.writeTape d f v).StorageSound := by
  unfold State.writeTape
  dsimp only
  split
  · split
    · exact h
    · exact h.setTape d (h.cartridges d)
  · exact h.setTape d (h.cartridges d)
  · exact h

theorem State.StorageSound.writePrinter {s : State} (h : s.StorageSound) (d : DevNo) (f : Nat) (v : Word) :
    (s.writePrinter d f v).StorageSound := by
  unfold State.writePrinter
  split <;> exact ⟨h.mem, h.images, h.cartridges⟩

theorem State.StorageSound.writeTerminal {s : State} (h : s.StorageSound) (d : DevNo) (f : Nat) (v : Word) :
    (s.writeTerminal d f v).StorageSound := by
  unfold State.writeTerminal
  split <;> exact ⟨h.mem, h.images, h.cartridges⟩

theorem State.StorageSound.writeDevice {s : State} (h : s.StorageSound) (line : Nat) (d : DevNo) (f : Nat)
    (v : Word) : (s.writeDevice line d f v).StorageSound := by
  unfold State.writeDevice
  split
  · split
    · exact h.writeDisk d f v
    · exact h
  · split
    · exact h.writeTape d f v
    · exact h
  · split
    · exact h.writePrinter d f v
    · exact h
  · split
    · exact h.writeTerminal d f v
    · exact h
  · exact h

theorem State.StorageSound.writeBus {s : State} (h : s.StorageSound) (n : Nat) (v : Word) :
    (s.writeBus n v).StorageSound := by
  unfold State.writeBus
  split
  · exact ⟨h.mem, h.images, h.cartridges⟩
  · split
    · exact h.writeDevice _ _ _ v
    · exact h

theorem State.StorageSound.memWrite {s t : State} (h : s.StorageSound) {w : Width} {va v : Word}
    (ht : s.memWrite w va v = .ok t) : t.StorageSound := by
  obtain ⟨_, pa, _, hp⟩ := State.memWrite_ok ht
  obtain ⟨_, rfl⟩ | ⟨_, _, rfl⟩ := State.physWrite_ok hp
  · exact h.setMem (Memory.wf_store _ _ _ _ h.mem)
  · exact h.writeBus _ v

theorem State.StorageSound.writeAround {s t : State} (h : s.StorageSound) {va : Word} {f : Word → Word}
    (ht : s.writeAround va f = .ok t) : t.StorageSound := by
  obtain ⟨_, _, _, rfl⟩ := State.writeAround_ok ht
  exact h.setMem (Memory.wf_writeWord _ _ _ h.mem)

/-! ### The controllers -/

theorem State.StorageSound.diskMoves {s : State} (h : s.StorageSound) (d : DevNo) (b : Busy) (e : Nat) :
    (s.diskMoves d b e).StorageSound := by
  unfold State.diskMoves
  dsimp only
  split
  · exact h
  · split
    · split
      · exact h.setMem (Memory.wf_copyWords _ _ _ _ _ h.mem)
      · split
        · exact h.setDisk d (Memory.wf_copyWords _ _ _ _ _ (h.images d))
        · exact h
    · exact h

theorem State.StorageSound.endDisk {s : State} (h : s.StorageSound) (d : DevNo) (st : Word) :
    (s.endDisk d st).StorageSound := h.setDisk d (h.images d)

theorem State.StorageSound.endSeek {s : State} (h : s.StorageSound) (d : DevNo) (b : Busy) :
    (s.endSeek d b).StorageSound := by
  unfold State.endSeek
  dsimp only
  split <;> exact h.setDisk d (h.images d)

/-- A failed transfer spoils bytes of RAM, never its form (R399). -/
theorem State.StorageSound.scrambleRam {s : State} (h : s.StorageSound) (v : Nat → Byte) (a : Word) :
    ({ s with mem := scrambleRam s.params v a s.mem } : State).StorageSound :=
  h.setMem (Memory.wf_scramble _ _ _ _ h.mem)

theorem State.StorageSound.endDiskRead {s : State} (h : s.StorageSound) (d : DevNo) (b : Busy) (e : Nat) :
    (s.endDiskRead d b e).StorageSound := by
  unfold State.endDiskRead
  dsimp only
  split
  · exact (h.scrambleRam _ _).endDisk d _
  · split
    · exact (h.scrambleRam _ _).endDisk d _
    · exact (h.diskMoves d b e).endDisk d _

theorem State.StorageSound.endDiskWrite {s : State} (h : s.StorageSound) (d : DevNo) (b : Busy) (e : Nat) :
    (s.endDiskWrite d b e).StorageSound := by
  unfold State.endDiskWrite
  dsimp only
  split
  · exact h.endDisk d _
  · have spoiled := fun v off => h.setDisk d
      (k := { s.disks[d] with image := Memory.scramble v (fun _ => true) off 4096 s.disks[d].image })
      (Memory.wf_scramble _ _ _ _ (h.images d))
    split
    · exact (spoiled _ _).endDisk d _
    · split
      · exact (spoiled _ _).endDisk d _
      · exact (h.diskMoves d b e).endDisk d _

theorem State.StorageSound.endDiskOp {s : State} (h : s.StorageSound) (d : DevNo) (b : Busy) (e : Nat) :
    (s.endDiskOp d b e).StorageSound := by
  unfold State.endDiskOp
  split
  · exact h.endSeek d b
  · exact h.endDiskRead d b e
  · exact h.endDiskWrite d b e
  · exact h.endDisk d _

theorem State.StorageSound.diskTick {s : State} (h : s.StorageSound) (d : DevNo) : (s.diskTick d).StorageSound := by
  unfold State.diskTick
  split
  · exact h
  · rename_i b _
    dsimp only
    split
    · exact h.endDiskOp d b _
    · have moved := h.diskMoves d b (b.elapsed + 1)
      exact moved.setDisk d (moved.images d)

theorem State.StorageSound.tapeMoves {s : State} (h : s.StorageSound) (d : DevNo) (b : Busy) (e : Nat) :
    (s.tapeMoves d b e).StorageSound := by
  unfold State.tapeMoves
  dsimp only
  split
  · exact h
  · split
    · exact h.setMem (Memory.wf_copyWords _ _ _ _ _ h.mem)
    · exact h

theorem State.StorageSound.endTape {s : State} (h : s.StorageSound) (d : DevNo) (st : Word) (head : Nat) :
    (s.endTape d st head).StorageSound := h.setTape d (h.cartridges d)

theorem State.StorageSound.endTapeRead {s : State} (h : s.StorageSound) (d : DevNo) (b : Busy) (e : Nat) :
    (s.endTapeRead d b e).StorageSound := by
  unfold State.endTapeRead
  have spoiled := fun v => h.scrambleRam v b.data0
  dsimp only
  split
  · exact (spoiled _).endTape d _ _
  · split
    · exact (spoiled _).endTape d _ _
    · split
      · exact (spoiled _).endTape d _ _
      · exact (h.tapeMoves d b e).endTape d _ _

theorem State.StorageSound.endTapeOp {s : State} (h : s.StorageSound) (d : DevNo) (b : Busy) (e : Nat) :
    (s.endTapeOp d b e).StorageSound := by
  unfold State.endTapeOp
  dsimp only
  split
  case h_2 => exact h.endTapeRead d b e
  case h_4 => exact h.endTape d _ _
  all_goals (repeat' split) <;> exact h.endTape d _ _

theorem State.StorageSound.tapeTick {s : State} (h : s.StorageSound) (d : DevNo) : (s.tapeTick d).StorageSound := by
  unfold State.tapeTick
  split
  · exact h
  · rename_i b _
    dsimp only
    split
    · exact h.endTapeOp d b _
    · have moved := h.tapeMoves d b (b.elapsed + 1)
      exact moved.setTape d (moved.cartridges d)

theorem State.StorageSound.printerTick {s : State} (h : s.StorageSound) (d : DevNo) :
    (s.printerTick d).StorageSound := ⟨h.mem, h.images, h.cartridges⟩

theorem State.StorageSound.terminalTick {s : State} (h : s.StorageSound) (d : DevNo) :
    (s.terminalTick d).StorageSound := ⟨h.mem, h.images, h.cartridges⟩

theorem State.StorageSound.devTick {s : State} (h : s.StorageSound) (d : DevNo) : (s.devTick d).StorageSound :=
  (((h.diskTick d).tapeTick d).printerTick d).terminalTick d

theorem State.StorageSound.devicesTick {s : State} (h : s.StorageSound) : s.devicesTick.StorageSound := by
  unfold State.devicesTick
  generalize allDevs = devs
  induction devs generalizing s with
  | nil => exact h
  | cons d rest ih => exact ih (h.devTick d)

theorem State.StorageSound.tick {s : State} (h : s.StorageSound) : s.tick.StorageSound :=
  ⟨h.mem, h.images, h.cartridges⟩

theorem State.StorageSound.agents {s : State} (h : s.StorageSound) : s.agents.StorageSound := h.devicesTick.tick

end Sys2Proof.Machine
end

section
/-! SUPPORT. Random (R56) and the other parts of the CPU's half of the invariant. -/

namespace Sys2Proof.Machine

/-! ### Random -/

theorem Params.wf_tlbSize {p : Params} (h : p.wf = true) : 4 ≤ p.tlbSize ∧ p.tlbSize ≤ 64 := by
  simp only [Params.wf, Bool.and_eq_true, decide_eq_true_eq] at h
  omega

/-- A TLB-Index put into place reads back (R55). -/
theorem toNat_tlbIndex_shiftLeft {n : Nat} (h : n < 64) :
    ((BitVec.ofNat 32 n <<< 8).extractLsb' 8 6).toNat = n := by
  simp only [BitVec.extractLsb'_toNat, BitVec.toNat_shiftLeft, BitVec.toNat_ofNat, Nat.shiftLeft_eq,
    Nat.shiftRight_eq_div_pow]
  omega

/-- A TLB-Index put into place leaves every other bit 0 (R56). -/
theorem tlbIndex_shiftLeft_and : ∀ n : Nat, n < 64 → (BitVec.ofNat 32 n <<< 8) &&& 0xFFFFC0FF#32 = 0#32 := by
  decide

theorem nextRandom_range {size r : Nat} (hsize : 4 ≤ size) (hr : r < size) :
    1 ≤ nextRandom size r ∧ nextRandom size r ≤ size - 1 := by
  unfold nextRandom
  split <;> omega

theorem nextRandom_lt {size r : Nat} (hsize : 4 ≤ size ∧ size ≤ 64) (hr : r < 64) : nextRandom size r < 64 := by
  unfold nextRandom
  split <;> omega

theorem State.tick_randomIndex (s : State) (hwf : s.params.wf = true) :
    s.tick.randomIndex.toNat = nextRandom s.params.tlbSize s.randomIndex.toNat :=
  toNat_tlbIndex_shiftLeft (nextRandom_lt (Params.wf_tlbSize hwf) s.randomIndex.isLt)

theorem State.resetWith_randomIndex (p : Params) (m : Media) (hwf : p.wf = true) :
    (State.resetWith p m).randomIndex.toNat = p.tlbSize - 1 := by
  obtain ⟨hlow, hhigh⟩ := Params.wf_tlbSize hwf
  exact toNat_tlbIndex_shiftLeft (by omega)

theorem State.randomOk_iff (s : State) : s.randomOk = true ↔
    1 ≤ s.randomIndex.toNat ∧ s.randomIndex.toNat < s.params.tlbSize ∧ s.random &&& 0xFFFFC0FF#32 = 0#32 := by
  simp only [State.randomOk, Bool.and_eq_true, decide_eq_true_eq, and_assoc]

theorem State.randomOk_congr {s t : State} (hr : t.random = s.random) (hp : t.params = s.params) :
    t.randomOk = s.randomOk := by
  rw [Bool.eq_iff_iff]
  simp only [State.randomOk_iff, State.randomIndex, hr, hp]

theorem State.randomOk_tick {s : State} (hwf : s.params.wf = true) (h : s.randomOk = true) :
    s.tick.randomOk = true := by
  obtain ⟨_, hlt, _⟩ := s.randomOk_iff.1 h
  have hsize := Params.wf_tlbSize hwf
  obtain ⟨hlow, hhigh⟩ := nextRandom_range hsize.1 hlt
  rw [State.randomOk_iff, s.tick_randomIndex hwf, State.tick_params, State.tick_random]
  exact ⟨hlow, by omega, tlbIndex_shiftLeft_and _ (by omega)⟩

theorem State.randomOk_resetWith (p : Params) (m : Media) (hwf : p.wf = true) :
    (State.resetWith p m).randomOk = true := by
  have hsize := Params.wf_tlbSize hwf
  rw [State.randomOk_iff, State.resetWith_randomIndex p m hwf]
  have hparams : (State.resetWith p m).params = p := rfl
  rw [hparams]
  exact ⟨by omega, by omega, tlbIndex_shiftLeft_and _ (by omega)⟩

/-! ### CU[3:1] of Status -/

/-- CU[3:1] are 0 (R40). -/
abbrev CuClear (st : Word) : Prop := st &&& 0xE0000000#32 = 0#32

theorem getLsbD_cuMask : ∀ i : Nat, i < 32 → (0xE0000000#32).getLsbD i = decide (29 ≤ i) := by decide

theorem cuClear_iff (st : Word) : CuClear st ↔ ∀ i, 29 ≤ i → i < 32 → bitAt st i = false := by
  unfold CuClear bitAt
  constructor
  · intro h i hlow hi
    have hbit := congrArg (fun w : Word => w.getLsbD i) h
    simpa [getLsbD_cuMask i hi, hlow] using hbit
  · intro h
    apply BitVec.eq_of_getLsbD_eq
    intro i hi
    by_cases hlow : 29 ≤ i
    · simp [h i hlow hi]
    · simp [getLsbD_cuMask i hi, hlow]

/-- A word masked by what leaves CU[3:1] out. -/
theorem cuClear_and (w mask : Word) (h : CuClear mask) : CuClear (w &&& mask) := by
  unfold CuClear at h ⊢
  rw [BitVec.and_assoc, h]
  simp

theorem CuClear.or {a b : Word} (ha : CuClear a) (hb : CuClear b) : CuClear (a ||| b) := by
  unfold CuClear at ha hb ⊢
  rw [BitVec.and_or_distrib_right, ha, hb]
  simp

theorem CuClear.and_mask {st : Word} (h : CuClear st) (mask : Word) : CuClear (st &&& mask) := by
  rw [BitVec.and_comm]
  exact cuClear_and mask st h

theorem CuClear.pushStacks {st : Word} (h : CuClear st) : CuClear (pushStacks st) := by
  rw [cuClear_iff] at h ⊢
  intro i hlow hi
  rw [bitAt_pushStacks st i hi, if_neg (by omega), if_neg (by omega), if_neg (by omega)]
  exact h i hlow hi

theorem CuClear.popStacks {st : Word} (h : CuClear st) : CuClear (popStacks st) := by
  rw [cuClear_iff] at h ⊢
  intro i hlow hi
  rw [bitAt_popStacks st i hi, if_neg (by omega), if_neg (by omega)]
  exact h i hlow hi

/-- A software write of Status leaves CU[3:1] 0, whatever the open bits are (R40, R41). -/
theorem State.cuClear_statusWritten (s : State) (v : Word) : CuClear (s.statusWritten v) :=
  (cuClear_and _ _ (by decide)).or (cuClear_and _ _ (by decide))

/-! ### The pending load -/

/-- A pending load is never into $0 (R21, R226). -/
def loadAllowed : Option (RegIdx × Word) → Bool
  | some (r, _) => r ≠ 0#5
  | none => true

theorem loadAllowed_newDelay (load : Option (RegIdx × Word)) : loadAllowed (newDelay load) = true := by
  cases load with
  | none => rfl
  | some p =>
    obtain ⟨r, v⟩ := p
    by_cases hr : r = 0#5 <;> simp [newDelay, loadAllowed, hr]

/-! ### The CPU's half -/

/-- `State.cpuOk` part by part (`State.cpuOk_iff`). -/
structure State.CpuSound (s : State) : Prop where
  status : CuClear s.status
  ldelay : loadAllowed s.ldelay = true
  random : s.params.wf = true → s.randomOk = true

theorem State.cpuOk_iff (s : State) : s.cpuOk = true ↔ s.CpuSound := by
  have hsplit : s.cpuOk = (decide (s.status &&& 0xE0000000#32 = 0#32) && loadAllowed s.ldelay
      && (!s.params.wf || s.randomOk)) := rfl
  rw [hsplit, Bool.and_eq_true, Bool.and_eq_true, decide_eq_true_eq, Bool.or_eq_true, Bool.not_eq_true']
  constructor
  · rintro ⟨⟨hst, hl⟩, hr⟩
    exact ⟨hst, hl, fun hwf => hr.resolve_left (by simp [hwf])⟩
  · rintro ⟨hst, hl, hr⟩
    refine ⟨⟨hst, hl⟩, ?_⟩
    cases hwf : s.params.wf with
    | false => exact .inl rfl
    | true => exact .inr (hr hwf)

/-- Random and the configuration kept, only Status and the pending load are to be looked at. -/
theorem State.CpuSound.update {s t : State} (h : s.CpuSound) (hst : CuClear t.status)
    (hl : loadAllowed t.ldelay = true) (hr : t.random = s.random) (hp : t.params = s.params) : t.CpuSound :=
  ⟨hst, hl, fun hwf => State.randomOk_congr hr hp ▸ h.random (hp ▸ hwf)⟩

theorem State.CpuSound.congr {s t : State} (h : s.CpuSound) (hst : t.status = s.status) (hl : t.ldelay = s.ldelay)
    (hr : t.random = s.random) (hp : t.params = s.params) : t.CpuSound :=
  h.update (hst ▸ h.status) (hl ▸ h.ldelay) hr hp

theorem SameCpu.cpuSound {s t : State} (k : SameCpu s t) (h : s.CpuSound) : t.CpuSound :=
  h.congr k.status k.ldelay k.random k.params

theorem SameButDevices.cpuSound {s t : State} (k : SameButDevices s t) (h : s.CpuSound) : t.CpuSound :=
  h.congr k.status k.ldelay k.random k.params

/-- The end of a step: the new pending load is never into $0. -/
theorem State.CpuSound.retire {s : State} (h : s.CpuSound) (e : Retire) : (s.retire e).CpuSound :=
  h.update h.status (loadAllowed_newDelay e.load) rfl rfl

theorem State.CpuSound.takeException {s : State} (h : s.CpuSound) (e : Exc) : (s.takeException e).CpuSound :=
  h.update h.status.pushStacks h.ldelay rfl rfl

theorem State.CpuSound.commitLoad {s : State} (h : s.CpuSound) : s.commitLoad.CpuSound := h.update h.status rfl rfl rfl

theorem State.CpuSound.tick {s : State} (h : s.CpuSound) : s.tick.CpuSound :=
  ⟨h.status, h.ldelay, fun hwf => State.randomOk_tick hwf (h.random hwf)⟩

theorem State.CpuSound.agents {s : State} (h : s.CpuSound) : s.agents.CpuSound :=
  (s.devicesTick_frame.cpuSound h).tick

theorem State.CpuSound.cp0Write {s t : State} (h : s.CpuSound) {rd : RegIdx} {v : Word}
    (ht : s.cp0Write rd v = some t) : t.CpuSound := by
  unfold State.cp0Write at ht
  split at ht <;> cases ht
  case h_4 => exact h.update (s.cuClear_statusWritten v) h.ldelay rfl rfl
  all_goals exact h.update h.status h.ldelay rfl rfl

end Sys2Proof.Machine
end
section
/-! SUPPORT. The invariant through reset, the host's actions, instructions and the ROM's routines. -/

namespace Sys2Proof.Machine

/-- `State.inv` as its two halves (`State.inv_iff`). -/
structure State.Sound (s : State) : Prop where
  storage : s.StorageSound
  cpu : s.CpuSound

theorem State.inv_iff (s : State) : s.inv = true ↔ s.Sound := by
  rw [State.inv, Bool.and_eq_true, State.storageOk_iff, State.cpuOk_iff]
  exact ⟨fun ⟨hs, hc⟩ => ⟨hs, hc⟩, fun ⟨hs, hc⟩ => ⟨hs, hc⟩⟩

/-- A change of memory and devices that keeps the storage's half keeps the whole. -/
theorem State.Sound.ofStorage {s t : State} (h : s.Sound) (ht : t.StorageSound)
    (hst : t.status = s.status) (hl : t.ldelay = s.ldelay) (hr : t.random = s.random)
    (hp : t.params = s.params) : t.Sound := ⟨ht, h.cpu.congr hst hl hr hp⟩

/-- The fields the invariant speaks of. -/
def State.invFields (s : State) :
    Memory × Vector Disk 8 × Vector Tape 8 × Word × Option (RegIdx × Word) × Word × Params :=
  (s.mem, s.disks, s.tapes, s.status, s.ldelay, s.random, s.params)

/-- A change of no field the invariant speaks of. -/
theorem State.Sound.congr {s t : State} (h : s.Sound) (ht : t.invFields = s.invFields) : t.Sound := by
  simp only [State.invFields, Prod.mk.injEq] at ht
  obtain ⟨hm, hd, hta, hst, hl, hr, hp⟩ := ht
  exact h.ofStorage ⟨hm ▸ h.storage.mem, hd ▸ h.storage.images, hta ▸ h.storage.cartridges⟩ hst hl hr hp

theorem State.Sound.agents {s : State} (h : s.Sound) : s.agents.Sound := ⟨h.storage.agents, h.cpu.agents⟩

theorem State.Sound.commitLoad {s : State} (h : s.Sound) : s.commitLoad.Sound :=
  ⟨⟨h.storage.mem, h.storage.images, h.storage.cartridges⟩, h.cpu.commitLoad⟩

theorem State.Sound.retire {s : State} (h : s.Sound) (e : Retire) : (s.retire e).Sound :=
  ⟨⟨h.storage.mem, h.storage.images, h.storage.cartridges⟩, h.cpu.retire e⟩

theorem State.Sound.takeException {s : State} (h : s.Sound) (e : Exc) : (s.takeException e).Sound :=
  ⟨⟨h.storage.mem, h.storage.images, h.storage.cartridges⟩, h.cpu.takeException e⟩

theorem State.Sound.startAt {s : State} (h : s.Sound) (t : Word) : (s.startAt t).Sound := h.congr rfl

/-! ### Reset -/

theorem State.resetWith_sound (p : Params) (m : Media) (h : m.ok = true) : (State.resetWith p m).Sound := by
  obtain ⟨himages, hcartridges⟩ := m.ok_iff.1 h
  have cuReset : CuClear 0x10400000#32 := by decide
  refine ⟨⟨resetMemory_wf p, fun d => ?_, fun d => ?_⟩, ⟨cuReset, rfl, State.randomOk_resetWith p m⟩⟩
  · simpa only [State.resetWith, deviceBank_getElem] using himages d
  · simpa only [State.resetWith, deviceBank_getElem] using hcartridges d

theorem State.StorageSound.media_ok {s : State} (h : s.StorageSound) : s.media.ok = true := by
  rw [Media.ok_iff]
  simp only [State.media, deviceBank_getElem]
  exact ⟨h.images, h.cartridges⟩

theorem Media.foldl_change_ok (files : List DeviceFile) (m : Media) (h : m.ok = true) :
    (files.foldl Media.change m).ok = true := by
  induction files generalizing m with
  | nil => exact h
  | cons f rest ih => exact ih _ (m.change_ok f h)

theorem State.Sound.hostReset {s : State} (h : s.Sound) (p : Params) (files : List DeviceFile) :
    (s.hostReset p files).Sound :=
  have fresh := State.resetWith_sound p _ (Media.foldl_change_ok files _ h.storage.media_ok)
  ⟨⟨fresh.storage.mem, fresh.storage.images, fresh.storage.cartridges⟩,
    ⟨fresh.cpu.status, fresh.cpu.ldelay, fresh.cpu.random⟩⟩

/-! ### The host's actions -/

/-- The host's change of Random is within its range (R56, log entry 12). -/
theorem State.randomOk_hostRandom {s : State} {v : Word} (hlow : 1 ≤ (v.extractLsb' 8 6).toNat)
    (hhigh : (v.extractLsb' 8 6).toNat < s.params.tlbSize) :
    ({ s with random := v &&& 0x00003F00#32 } : State).randomOk = true := by
  have hfield : (v &&& 0x00003F00#32).extractLsb' 8 6 = v.extractLsb' 8 6 := by
    rw [BitVec.extractLsb'_and, show (0x00003F00#32).extractLsb' 8 6 = BitVec.allOnes 6 by decide,
      BitVec.and_allOnes]
  have hrest : v &&& 0x00003F00#32 &&& 0xFFFFC0FF#32 = 0#32 := by
    rw [BitVec.and_assoc, show 0x00003F00#32 &&& 0xFFFFC0FF#32 = 0#32 by decide, BitVec.and_zero]
  rw [State.randomOk_iff]
  simp only [State.randomIndex, hfield]
  exact ⟨hlow, hhigh, hrest⟩

theorem State.Sound.hostCp0 {s : State} (h : s.Sound) (rd : RegIdx) (v : Word) : (s.hostCp0 rd v).Sound := by
  unfold State.hostCp0
  split
  case h_2 =>
    split
    · rename_i hrange
      simp only [Bool.and_eq_true, decide_eq_true_eq] at hrange
      exact ⟨⟨h.storage.mem, h.storage.images, h.storage.cartridges⟩,
        ⟨h.cpu.status, h.cpu.ldelay, fun _ => State.randomOk_hostRandom hrange.1 hrange.2⟩⟩
    · exact h
  case h_6 =>
    exact ⟨⟨h.storage.mem, h.storage.images, h.storage.cartridges⟩,
      h.cpu.update (cuClear_and _ _ (by decide)) h.cpu.ldelay rfl rfl⟩
  case h_9 => exact h
  all_goals exact h.congr rfl

theorem State.Sound.setDisk {s : State} (h : s.Sound) (d : DevNo) {k : Disk} (hk : k.image.wf = true) :
    ({ s with disks := setDev s.disks d k } : State).Sound := h.ofStorage (h.storage.setDisk d hk) rfl rfl rfl rfl

theorem State.Sound.setTape {s : State} (h : s.Sound) (d : DevNo) {k : Tape}
    (hk : cartridgeAllowed k.cartridge = true) : ({ s with tapes := setDev s.tapes d k } : State).Sound :=
  h.ofStorage (h.storage.setTape d hk) rfl rfl rfl rfl

theorem State.Sound.hostDevice {s : State} (h : s.Sound) (line : Nat) (d : DevNo) (f : Nat) (v : Word) :
    (s.hostDevice line d f v).Sound := by
  unfold State.hostDevice
  dsimp only
  split
  · split
    · exact h.setDisk d (h.storage.images d)
    · exact h
  · split
    · exact h.setTape d (h.storage.cartridges d)
    · exact h
  · split
    · exact h.congr rfl
    · exact h
  · split
    · exact h.congr rfl
    · exact h
  · exact h

theorem State.Sound.hostWord {s : State} (h : s.Sound) (pa v : Word) : (s.hostWord pa v).Sound := by
  unfold State.hostWord
  split
  · exact h
  · split
    · exact h.ofStorage (h.storage.setMem (Memory.wf_writeWord _ _ _ h.storage.mem)) rfl rfl rfl rfl
    · dsimp only
      split
      · exact h.hostDevice _ _ _ v
      · exact h
    · exact h

theorem State.Sound.typed {s : State} (h : s.Sound) (d : DevNo) (line : List Byte) : (s.typed d line).Sound := by
  unfold State.typed
  split
  · exact h.congr rfl
  · exact h

theorem State.Sound.changeTape {s : State} (h : s.Sound) (d : DevNo) (c : Option (List TapeBlock))
    (hc : cartridgeAllowed c = true) : (s.changeTape d c).Sound := by
  unfold State.changeTape
  dsimp only
  split
  · exact h.setTape d hc
  · exact h

theorem State.Sound.switchFailure {s : State} (h : s.Sound) (cls : DevClass) (d : DevNo) (on : Bool) :
    (s.switchFailure cls d on).Sound := by
  cases cls with
  | disk => exact h.setDisk d (h.storage.images d)
  | tape => exact h.setTape d (h.storage.cartridges d)
  | printer => exact h.congr rfl
  | terminal => exact h.congr rfl

theorem State.Sound.hostAct {s : State} (h : s.Sound) (a : HostAct) : (s.hostAct a).Sound := by
  cases a
  case setCp0 rd v => exact h.hostCp0 rd v
  case setWord pa v => exact h.hostWord pa v
  case typeLine d line => exact h.typed d line
  case loadTape d blocks =>
    simp only [State.hostAct]
    split
    · rename_i hc; exact h.changeTape d (some blocks) hc
    · exact h
  case unloadTape d => exact h.changeTape d none rfl
  case setFailure cls d on => exact h.switchFailure cls d on
  case reset p files => exact h.hostReset p files
  all_goals exact h.congr rfl

theorem State.Sound.hostActs {s : State} (h : s.Sound) (acts : List HostAct) : (s.hostActs acts).Sound := by
  induction acts generalizing s with
  | nil => exact h
  | cons a rest ih => exact ih (h.hostAct a)

/-- The invariant where the interrupt test and the fetch are made. -/
theorem AfterAgents.sound {s u : State} (hu : AfterAgents s u) (h : s.Sound) : u.Sound := by
  obtain ⟨_, rfl⟩ | ⟨acts, rest, _, rfl⟩ := hu
  · exact h.agents
  · have started : ({ s with inputs := rest } : State).Sound := h.congr rfl
    exact (started.hostActs acts).agents

/-! ### Instructions -/

theorem State.StorageSound.cp0Write {s t : State} (h : s.StorageSound) {rd : RegIdx} {v : Word}
    (ht : s.cp0Write rd v = some t) : t.StorageSound := by
  unfold State.cp0Write at ht
  split at ht <;> cases ht <;> exact ⟨h.mem, h.images, h.cartridges⟩

theorem Effect.sound {s t : State} (ht : Effect s t) (h : s.Sound) : t.Sound := by
  cases ht with
  | entry e => exact (h.takeException e).commitLoad
  | registers hi lo e =>
    have moved : ({ s with hi := hi, lo := lo } : State).Sound := h.congr rfl
    exact moved.retire e
  | store hw => exact State.Sound.retire ⟨h.storage.memWrite hw, (State.memWrite_frame hw).cpuSound h.cpu⟩ {}
  | storeAround hw =>
    obtain ⟨_, _, _, rfl⟩ := State.writeAround_ok hw
    exact (h.ofStorage (h.storage.writeAround hw) rfl rfl rfl rfl).retire {}
  | cp0 _ hw => exact State.Sound.retire ⟨h.storage.cp0Write hw, h.cpu.cp0Write hw⟩ {}
  | tlb _ v =>
    have moved : ({ s with tlb := v } : State).Sound := h.congr rfl
    exact moved.retire {}
  | tlbRead _ hi lo =>
    have moved : ({ s with entryHi := hi, entryLo := lo } : State).Sound := h.congr rfl
    exact moved.retire {}
  | probe _ v =>
    have moved : ({ s with index := v } : State).Sound := h.congr rfl
    exact moved.retire {}
  | rfe _ =>
    have popped : s.returnFromException.Sound :=
      ⟨⟨h.storage.mem, h.storage.images, h.storage.cartridges⟩,
        h.cpu.update h.cpu.status.popStacks h.cpu.ldelay rfl rfl⟩
    exact popped.retire {}

/-! ### The ROM's routines -/

theorem State.Sound.runAgents {s : State} (h : s.Sound) (n : Nat) : (State.runAgents n s).Sound := by
  induction n generalizing s with
  | zero => exact h
  | succ n ih => exact ih h.agents

/-- A routine's own work on the registers: of what it writes only Status matters to the invariant. -/
theorem State.Sound.setRegs {s : State} (h : s.Sound) (gpr : Vector Word 32) (hi lo entryLo entryHi cause : Word)
    {status : Word} (tlb : Vector TlbEntry 64) (hst : CuClear status) :
    ({ s with gpr := gpr, hi := hi, lo := lo, entryLo := entryLo, entryHi := entryHi, status := status,
              cause := cause, tlb := tlb } : State).Sound :=
  ⟨⟨h.storage.mem, h.storage.images, h.storage.cartridges⟩, h.cpu.update hst h.cpu.ldelay rfl rfl⟩

theorem State.Sound.loadState {s : State} (h : s.Sound) (a : Word) : (s.loadState a).Sound :=
  (h.setRegs _ _ _ _ _ _ _ (s.cuClear_statusWritten _).popStacks).startAt _

theorem State.Sound.storeState {s : State} (h : s.Sound) (a cause : Word) : (s.storeState a cause).Sound :=
  h.ofStorage (h.storage.setMem (wf_storeWords _ _ _ h.storage.mem)) rfl rfl rfl rfl

theorem State.Sound.passUp {s : State} (h : s.Sound) (old new : Word) : (s.passUp old new).Sound :=
  (h.storeState old s.causeRead).loadState new

theorem State.Sound.passUpRefill {s : State} (h : s.Sound) (code : BitVec 5) : (s.passUpRefill code).Sound :=
  (h.storeState _ _).loadState _

theorem State.Sound.forkRegs {s : State} (h : s.Sound) (p : Word) : (s.forkRegs p).Sound :=
  h.setRegs _ _ _ _ _ _ _ h.cpu.status

theorem State.Sound.forkLast {s : State} (h : s.Sound) (g : ForkRest) : (s.forkLast g).Sound :=
  (h.setRegs _ _ _ _ _ _ _ (s.cuClear_statusWritten _).popStacks).startAt _

theorem State.Sound.forkPause {s : State} (h : s.Sound) (g : ForkRest) : (s.forkPause g).Sound :=
  (h.setRegs _ _ _ _ _ _ _ (s.cuClear_statusWritten _)).startAt _

theorem State.Sound.refill {s : State} (h : s.Sound) (e : TlbEntry) : (s.refill e).Sound :=
  (h.setRegs _ _ _ _ _ _ _ h.cpu.status.popStacks).startAt _

theorem romLdst_sound {s t : State} (h : s.Sound) (ht : romLdst s = .next t) : t.Sound := by
  unfold romLdst at ht
  dsimp only at ht
  split at ht <;> cases ht
  exact h.loadState _

theorem romFork_sound {s t : State} (h : s.Sound) (ht : romFork s = .next t) : t.Sound := by
  unfold romFork at ht
  dsimp only at ht
  split at ht
  · cases ht
  · split at ht <;> cases ht
    · exact (h.forkRegs _).forkPause _
    · exact (h.forkRegs _).forkLast _

theorem romEnd_sound {s t : State} (h : s.Sound) {text : List Byte} {how : RunEnd}
    (ht : romEnd s text how = .next t) : t.Sound := by
  cases ht
  exact h.congr rfl

theorem romBreak_sound {s t : State} (h : s.Sound) (ht : romBreak s = .next t) : t.Sound := by
  unfold romBreak at ht
  dsimp only at ht
  split at ht
  · cases ht; exact h.passUp _ _
  · split at ht
    · exact romLdst_sound h ht
    · split at ht
      · exact romFork_sound h ht
      · split at ht
        · exact romEnd_sound h ht
        · split at ht
          · exact romEnd_sound h ht
          · cases ht; exact h.passUp _ _

theorem romExcpt_sound {s t : State} (h : s.Sound) (ht : romExcpt s = .next t) : t.Sound := by
  unfold romExcpt at ht
  dsimp only at ht
  split at ht
  case h_10 => exact romBreak_sound h ht
  case h_14 => cases ht
  all_goals cases ht; exact h.passUp _ _

theorem romRefill_sound {s t : State} (h : s.Sound) (ht : romRefill s = .next t) : t.Sound := by
  unfold romRefill at ht
  dsimp only at ht
  split at ht
  · cases ht; exact h.passUpRefill _
  · split at ht <;> cases ht
    · exact h.refill _
    · exact h.passUpRefill _

theorem readFile_wf : ∀ (blocks : List TapeBlock) (a : Nat) {m : Memory} (n : Nat), m.wf = true →
    (readFile blocks a m n).1.wf = true
  | [], _, _, _, h => h
  | b :: rest, a, _, n, h => by
    have copied := Memory.wf_copyWords (fun _ => true) b.data 0 a 1024 h
    simp only [readFile]
    split
    · exact copied
    · exact readFile_wf rest (a + 4096) (n + 1) copied

theorem State.Sound.bootTapeRead {s : State} (h : s.Sound) : s.bootTapeRead.Sound :=
  have read := h.storage.setMem (readFile_wf s.tapes[0].blocks 0x20001000 0 h.storage.mem)
  h.ofStorage (read.setTape 0 (h.storage.cartridges 0)) rfl rfl rfl rfl

/-- The boot sequence once the kernel is in RAM: BEV off and the jump to it (R455). -/
theorem State.Sound.boot {s : State} (h : s.Sound) (gpr : Vector Word 32) (t : Word) :
    (({ s with status := s.status &&& 0xFFBFFFFF#32, gpr := gpr } : State).startAt t).Sound :=
  (h.setRegs gpr _ _ _ _ _ _ (h.cpu.status.and_mask _)).startAt t

theorem romBoot_sound {s t : State} (h : s.Sound) (ht : romBoot s = .next t) : t.Sound := by
  unfold romBoot at ht
  dsimp only at ht
  split at ht
  · cases ht
  · split at ht
    · cases ht
    · cases ht
      split
      · exact h.bootTapeRead.boot _ _
      · exact h.boot _ _

theorem romRoutine_sound {s t : State} (h : s.Sound) (ht : romRoutine s = .next t) : t.Sound := by
  unfold romRoutine at ht
  split at ht
  · exact romRefill_sound h ht
  · split at ht
    · exact romExcpt_sound h ht
    · split at ht
      · exact romBoot_sound h ht
      · cases ht

theorem romStep_sound {s t : State} (h : s.Sound) (ht : romStep s = .next t) : t.Sound := by
  have entered := (h.runAgents (Config.freeNat .romCycles s.draws)).commitLoad
  unfold romStep at ht
  dsimp only at ht
  split at ht
  · cases ht; exact entered.forkLast _
  · split at ht
    · exact romRoutine_sound entered ht
    · cases ht

/-! ### The step -/

theorem Turn.sound {u t : State} (ht : Turn u t) (h : u.Sound) : t.Sound := by
  cases ht with
  | ended _ => exact h
  | entry e => exact (h.takeException e).commitLoad
  | instruction he => exact he.sound h
  | rom _ hr => exact romStep_sound h hr

/-- Settles O56: the host's actions and the agents keep the invariant, and so does whatever the turn then does. -/
theorem stepKeepsInvariant : Obligations.StepKeepsInvariant := by
  unfold Obligations.StepKeepsInvariant
  intro s t hs ht
  obtain ⟨u, hu, _, hturn⟩ := step_turn ht
  have entered : u.Sound := hu.sound (s.inv_iff.1 hs)
  exact t.inv_iff.2 (hturn.sound entered)

end Sys2Proof.Machine
end

section
/-! SUPPORT. Registers, Random, Cause and the state after reset, as the statements of 10_state.md ask for them. -/

namespace Sys2Proof.Machine

/-! ### Operands (R21, R226) -/

theorem State.delayed_eq_false {s : State} {r : RegIdx} (h : ∀ v, s.ldelay ≠ some (r, v)) :
    s.delayed r = false := by
  unfold State.delayed
  cases hl : s.ldelay with
  | none => rfl
  | some p =>
    obtain ⟨q, v⟩ := p
    have hq : q ≠ r := fun e => h v (e ▸ hl)
    simp [hq]

/-- Settles O6: an operand that is not delayed is the register. -/
theorem operandReads : Obligations.OperandReads := by
  unfold Obligations.OperandReads
  intro s r
  refine ⟨rfl, rfl, fun h => ?_⟩
  have hd := State.delayed_eq_false h
  exact ⟨s.operand_of_not_delayed _ r hd, s.operand_of_not_delayed _ r hd⟩

/-! ### Random (R56) -/

/-- MTC0 to a read-only register goes on from the same state (R276). -/
theorem exec_mtc0_random (s : State) (rt : RegIdx) (hu : s.cop0Usable = true) :
    exec (.mtc0 rt 1#5) s = .next (s.retire {}) := ifCop0Usable_pos s _ hu

/-- Settles O44, by the step formula of `nextRandom` and its range. -/
theorem randomCycles : Obligations.RandomCycles := by
  unfold Obligations.RandomCycles
  refine ⟨State.resetWith_randomIndex, fun s rt hu => ⟨_, exec_mtc0_random s rt hu, rfl⟩, fun s hwf => ?_⟩
  rw [s.tick_randomIndex hwf]
  exact ⟨rfl, nextRandom_range (Params.wf_tlbSize hwf).1⟩

/-! ### Cause as it reads (R44, R46) -/

/-- A flag put at bit `k`. -/
theorem getLsbD_boolWord_shiftLeft (b : Bool) (k : Nat) {i : Nat} (hi : i < 32) :
    (boolWord b <<< k).getLsbD i = (b && decide (i = k)) := by
  have hone : (boolWord b).getLsbD (i - k) = (b && decide (i - k = 0)) := by
    cases b <;> simp [boolWord]
  rw [BitVec.getLsbD_shiftLeft, hone]
  by_cases hk : i < k
  · simp [hk, show i ≠ k by omega]
  · simp [hi, hk, show i - k = 0 ↔ i = k by omega]

theorem getLsbD_boolWord (b : Bool) {i : Nat} (hi : i < 32) : (boolWord b).getLsbD i = (b && decide (i = 0)) := by
  simpa using getLsbD_boolWord_shiftLeft b 0 hi

/-- Bit `d` of a line's word is device `d`'s flag (R388). -/
theorem getLsbD_bankBits (f : DevNo → Bool) (d : DevNo) : (bankBits f).getLsbD d = f d := by
  have hd : d.val < 32 := by omega
  simp only [bankBits, BitVec.getLsbD_or, getLsbD_boolWord_shiftLeft _ _ hd, getLsbD_boolWord _ hd]
  fin_cases d <;> simp

theorem bankBits_eq_zero {f : DevNo → Bool} (h : ∀ d, f d = false) : bankBits f = 0#32 := by
  simp [bankBits, h, boolWord]

/-- A line's word is non-zero exactly when some device's flag is on (R46). -/
theorem bankBits_ne_zero_iff (f : DevNo → Bool) : bankBits f ≠ 0#32 ↔ ∃ d, f d = true := by
  constructor
  · intro h
    by_contra hnone
    exact h (bankBits_eq_zero fun d => by simpa using fun hd => hnone ⟨d, hd⟩)
  · rintro ⟨d, hd⟩ hzero
    have hbit := getLsbD_bankBits f d
    simp [hzero, hd] at hbit

theorem State.linePending_iff {s : State} {line : Nat} {f : DevNo → Bool} (h : s.pendingMap line = bankBits f) :
    s.linePending line = true ↔ ∃ d, f d = true := by
  rw [State.linePending, decide_eq_true_eq, h]
  exact bankBits_ne_zero_iff f

/-- Cause.IP[7:2], bit by bit. -/
theorem State.getLsbD_liveIp (s : State) {i : Nat} (hi : i < 32) :
    s.liveIp.getLsbD i =
      (s.timerPending && decide (i = 10) || s.linePending 3 && decide (i = 11) || s.linePending 4 && decide (i = 12)
        || s.linePending 5 && decide (i = 13) || s.linePending 6 && decide (i = 14)
        || s.linePending 7 && decide (i = 15)) := by
  simp only [State.liveIp, BitVec.getLsbD_or, getLsbD_boolWord_shiftLeft _ _ hi]

/-- The bits Cause stores (R44). -/
theorem getLsbD_causeMask : ∀ i : Nat, i < 32 →
    (0xB000037C#32).getLsbD i = decide (i ∈ [2, 3, 4, 5, 6, 8, 9, 28, 29, 31]) := by decide

/-- A bit outside the live lines is the stored one, where one is stored, else 0. -/
theorem State.bitAt_causeRead_stored (s : State) {i : Nat} (hi : i < 32) (hline : i < 10 ∨ 15 < i) :
    bitAt s.causeRead i = (bitAt s.cause i && decide (i ∈ [2, 3, 4, 5, 6, 8, 9, 28, 29, 31])) := by
  have hlive : s.liveIp.getLsbD i = false := by
    rw [s.getLsbD_liveIp hi]
    simp [show i ≠ 10 by omega, show i ≠ 11 by omega, show i ≠ 12 by omega, show i ≠ 13 by omega,
      show i ≠ 14 by omega, show i ≠ 15 by omega]
  rw [bitAt, State.causeRead, BitVec.getLsbD_or, BitVec.getLsbD_and, hlive, getLsbD_causeMask i hi, Bool.or_false]
  rfl

/-- A bit of the live lines is the line's present state. -/
theorem State.bitAt_causeRead_live (s : State) {i : Nat} (hlow : 10 ≤ i) (hhigh : i ≤ 15) :
    bitAt s.causeRead i = s.liveIp.getLsbD i := by
  have hmask : (0xB000037C#32).getLsbD i = false := by
    have hout : ∀ j ∈ [2, 3, 4, 5, 6, 8, 9, 28, 29, 31], j < 10 ∨ 15 < j := by decide
    rw [getLsbD_causeMask i (by omega)]
    exact decide_eq_false fun hi => by have := hout i hi; omega
  rw [bitAt, State.causeRead, BitVec.getLsbD_or, BitVec.getLsbD_and, hmask, Bool.and_false, Bool.false_or]

/-- The Interval Timer's line (R386). -/
theorem State.bitAt_causeRead_timer (s : State) : bitAt s.causeRead 10 = s.timerPending := by
  rw [s.bitAt_causeRead_live (by omega) (by omega), s.getLsbD_liveIp (by omega)]
  simp

/-- The device lines 3 to 7 (R46). -/
theorem State.bitAt_causeRead_line (s : State) {line : Nat} (hlow : 3 ≤ line) (hhigh : line ≤ 7) :
    bitAt s.causeRead (line + 8) = s.linePending line := by
  rw [s.bitAt_causeRead_live (by omega) (by omega), s.getLsbD_liveIp (by omega)]
  interval_cases line <;> simp

/-- Settles O37: the stored bits by Cause's mask, the live ones line by line. -/
theorem causeReadsLive : Obligations.CauseReadsLive := by
  unfold Obligations.CauseReadsLive
  intro s
  have hstored : ∀ i ∈ [2, 3, 4, 5, 6, 8, 9, 28, 29, 31], i < 32 ∧ (i < 10 ∨ 15 < i) := by decide
  have hunnamed : ∀ i ∈ [0, 1, 7, 16, 17, 18, 19, 20, 21, 22, 23, 24, 25, 26, 27, 30],
      i < 32 ∧ (i < 10 ∨ 15 < i) ∧ i ∉ [2, 3, 4, 5, 6, 8, 9, 28, 29, 31] := by decide
  have hline (line : Nat) (hlow : 3 ≤ line) (hhigh : line ≤ 7) (f : DevNo → Bool)
      (hf : s.pendingMap line = bankBits f) : bitAt s.causeRead (line + 8) = true ↔ ∃ d, f d = true := by
    rw [s.bitAt_causeRead_line hlow hhigh]
    exact State.linePending_iff hf
  refine ⟨fun i hi => ?_, fun i hi => ?_, s.bitAt_causeRead_timer, hline 3 (by omega) (by omega) _ rfl,
    hline 4 (by omega) (by omega) _ rfl, s.bitAt_causeRead_line (line := 5) (by omega) (by omega),
    hline 6 (by omega) (by omega) _ rfl, ?_⟩
  · obtain ⟨h32, hout⟩ := hstored i hi
    rw [s.bitAt_causeRead_stored h32 hout, decide_eq_true hi, Bool.and_true]
  · obtain ⟨h32, hout, hnot⟩ := hunnamed i hi
    rw [s.bitAt_causeRead_stored h32 hout, decide_eq_false hnot, Bool.and_false]
  · simpa only [Bool.or_eq_true] using hline 7 (by omega) (by omega)
      (fun d => s.terminals[d].recv.pending || s.terminals[d].transm.pending) rfl

/-! ### The state after reset (R66) -/

theorem Memory.read_load_of_lt : ∀ (bs : List Byte) {a b : Nat} (m : Memory), b < a →
    (Memory.load bs a m).read b = m.read b
  | [], _, _, _, _ => rfl
  | v :: rest, a, b, m, h => by
    rw [Memory.load, Memory.read_load_of_lt rest _ (by omega), Memory.read_write_of_ne m a b v (by omega)]

/-- An image's bytes read back at their places (R456). -/
theorem Memory.read_load : ∀ (bs : List Byte) (a : Nat) (m : Memory) (i : Nat) (h : i < bs.length),
    (Memory.load bs a m).read (a + i) = bs[i]
  | v :: rest, a, m, 0, _ => by
    rw [Memory.load, Memory.read_load_of_lt rest _ (by omega), Memory.read_write]
    simp
  | v :: rest, a, m, i + 1, h => by
    have htail := Memory.read_load rest (a + 1) (m.write a v) i (by simpa using h)
    rw [Memory.load, show a + (i + 1) = a + 1 + i by omega, htail]
    simp

/-- The core file is loaded last, so its bytes are in RAM (R456). -/
theorem resetMemory_read_core {p : Params} (hcore : p.loadCore = true) (i : Nat) (h : i < p.coreFile.length) :
    (resetMemory p).read (0x20001000 + i) = p.coreFile[i] := by
  unfold resetMemory
  dsimp only
  rw [if_pos hcore]
  exact Memory.read_load _ _ _ i h

theorem State.resetWith_params (p : Params) (m : Media) : (State.resetWith p m).params = p := rfl

theorem State.resetWith_disks (p : Params) (m : Media) (d : DevNo) : (State.resetWith p m).disks[d] =
    { reg := DevReg.reset (p.disks.getLsbD d), boom := 0, image := m.diskImages[d] } := deviceBank_getElem _ d

theorem State.resetWith_tapes (p : Params) (m : Media) (d : DevNo) : (State.resetWith p m).tapes[d] =
    { reg := DevReg.reset (p.tapes.getLsbD d), cartridge := m.cartridges[d], head := 0 } := deviceBank_getElem _ d

theorem State.resetWith_printers (p : Params) (m : Media) (d : DevNo) : (State.resetWith p m).printers[d] =
    { reg := DevReg.reset (p.printers.getLsbD d), output := m.printed[d] } := deviceBank_getElem _ d

theorem State.resetWith_terminals (p : Params) (m : Media) (d : DevNo) : (State.resetWith p m).terminals[d] =
    { recv := DevReg.reset (p.terminals.getLsbD d), transm := DevReg.reset (p.terminals.getLsbD d), input := [],
      output := m.shown[d] } := deviceBank_getElem _ d

theorem State.resetWith_interruptPending (p : Params) (m : Media) (line : Nat) (d : DevNo) :
    (State.resetWith p m).interruptPending line d = false := by
  unfold State.interruptPending
  split
  · rw [State.resetWith_disks]; rfl
  · rw [State.resetWith_tapes]; rfl
  · rw [State.resetWith_printers]; rfl
  · rw [State.resetWith_terminals]; rfl
  · rfl

theorem State.resetWith_linePending (p : Params) (m : Media) (line : Nat) :
    (State.resetWith p m).linePending line = false := by
  have hmap : (State.resetWith p m).pendingMap line = 0#32 := by
    have hidle := State.resetWith_interruptPending p m
    unfold State.pendingMap
    split
    · exact bankBits_eq_zero (hidle 3)
    · exact bankBits_eq_zero (hidle 4)
    · exact bankBits_eq_zero (hidle 6)
    · exact bankBits_eq_zero (hidle 7)
    · rfl
  simp [State.linePending, hmap]

/-- No line is asserted after reset (R49). -/
theorem State.resetWith_causeRead (p : Params) (m : Media) {i : Nat} (hlow : 10 ≤ i) (hhigh : i < 16) :
    bitAt (State.resetWith p m).causeRead i = false := by
  have htimer : (State.resetWith p m).timerPending = false := rfl
  rw [State.bitAt_causeRead_live _ hlow (by omega), State.getLsbD_liveIp _ (by omega)]
  simp [htimer, State.resetWith_linePending]

/-- A disk's words: Device Ready, and its geometry in DATA1 (R397, R406). -/
theorem State.resetWith_readDisk (p : Params) (m : Media) (d : DevNo) :
    [(State.resetWith p m).readDevice 3 d 0, (State.resetWith p m).readDevice 3 d 1,
        (State.resetWith p m).readDevice 3 d 2, (State.resetWith p m).readDevice 3 d 3] =
      if p.disks.getLsbD d then
        [1#32, 0#32, 0#32, p.diskGeom[d].maxCyl ++ p.diskGeom[d].maxHead ++ p.diskGeom[d].maxSect]
      else [0#32, 0#32, 0#32, 0#32] := by
  simp only [State.readDevice, State.resetWith_params, State.resetWith_disks]
  cases p.disks.getLsbD d <;> rfl

/-- An idle tape at TS shows it where a cartridge is loaded, else EOT (R416). -/
theorem Tape.marker_at_start {k : Tape} (hidle : k.reg.busy = none) (hhead : k.head = 0) (d : DevNo) (draws : Nat) :
    k.marker d draws = if k.cartridge.isSome then 3#32 else 0#32 := by
  unfold Tape.marker
  cases k.cartridge with
  | none => rfl
  | some blocks => simp [hidle, hhead, markerCode]

/-- A tape's words (R397, R416). -/
theorem State.resetWith_readTape (p : Params) (m : Media) (d : DevNo) :
    [(State.resetWith p m).readDevice 4 d 0, (State.resetWith p m).readDevice 4 d 1,
        (State.resetWith p m).readDevice 4 d 2, (State.resetWith p m).readDevice 4 d 3] =
      if p.tapes.getLsbD d then [1#32, 0#32, 0#32, if m.cartridges[d].isSome then 3#32 else 0#32]
      else [0#32, 0#32, 0#32, 0#32] := by
  simp only [State.readDevice, State.resetWith_params, State.resetWith_tapes]
  cases p.tapes.getLsbD d with
  | false => rfl
  | true => exact congrArg (fun shown => [1#32, 0#32, 0#32, shown]) (Tape.marker_at_start rfl rfl d _)

/-- A printer's words (R397, R421). -/
theorem State.resetWith_readPrinter (p : Params) (m : Media) (d : DevNo) :
    [(State.resetWith p m).readDevice 6 d 0, (State.resetWith p m).readDevice 6 d 1,
        (State.resetWith p m).readDevice 6 d 2, (State.resetWith p m).readDevice 6 d 3] =
      if p.printers.getLsbD d then [1#32, 0#32, 0#32, 0#32] else [0#32, 0#32, 0#32, 0#32] := by
  simp only [State.readDevice, State.resetWith_params, State.resetWith_printers]
  cases p.printers.getLsbD d <;> rfl

/-- A terminal's words: both sub-devices ready (R426). -/
theorem State.resetWith_readTerminal (p : Params) (m : Media) (d : DevNo) :
    [(State.resetWith p m).readDevice 7 d 0, (State.resetWith p m).readDevice 7 d 1,
        (State.resetWith p m).readDevice 7 d 2, (State.resetWith p m).readDevice 7 d 3] =
      if p.terminals.getLsbD d then [1#32, 0#32, 1#32, 0#32] else [0#32, 0#32, 0#32, 0#32] := by
  simp only [State.readDevice, State.resetWith_params, State.resetWith_terminals]
  cases p.terminals.getLsbD d <;> rfl

/-- Settles O54: the CPU's words, the core file, then each device's protocol state and words. -/
theorem resetValues : Obligations.ResetValues := by
  unfold Obligations.ResetValues
  rintro p m hwf s rfl
  refine ⟨⟨rfl, rfl, rfl, rfl, rfl, rfl, rfl, fun i => State.resetWith_causeRead p m,
    State.resetWith_randomIndex p m hwf, rfl, rfl, rfl, rfl⟩, resetMemory_read_core, fun d => ?_⟩
  rw [State.resetWith_disks, State.resetWith_tapes, State.resetWith_printers, State.resetWith_terminals]
  exact ⟨⟨rfl, rfl, rfl, rfl, rfl⟩, fun line => State.resetWith_interruptPending p m line d, rfl, rfl,
    State.resetWith_readDisk p m d, State.resetWith_readTape p m d, rfl, State.resetWith_readPrinter p m d,
    State.resetWith_readTerminal p m d⟩

end Sys2Proof.Machine
end

section
/-! SUPPORT. What a step can do to the bytes below 0x20000000: nothing (R91, R399). Stores and DMA reach RAM alone,
and the ROM's routines store into their state areas and, booting, into RAM from 0x20001000. -/

namespace Sys2Proof.Machine

/-- No byte below 0x20000000, where both ROMs are, differs (R81, R91). -/
def SameLow (s t : State) : Prop := ∀ a : Nat, a < 0x20000000 → t.mem.read a = s.mem.read a

theorem SameLow.of_mem_eq {s t : State} (h : t.mem = s.mem) : SameLow s t := fun _ _ => by rw [h]

theorem SameLow.trans {s t u : State} (h : SameLow s t) (k : SameLow t u) : SameLow s u :=
  fun a ha => (k a ha).trans (h a ha)

/-! ### Stores -/

theorem Memory.read_store_below (be : Bool) (m : Memory) (w : Width) (v : Word) {a b : Nat} (h : b < a) :
    (m.store be w a v).read b = m.read b := by
  cases w with
  | byte => exact m.read_write_of_ne a b _ (by omega)
  | half => rw [Memory.store, Memory.read_writeHalf, if_neg (by omega)]
  | word => rw [Memory.store, Memory.read_writeWord, if_neg (by omega)]

theorem Memory.read_storeWords_below (be : Bool) : ∀ (ws : List Word) {a b : Nat} (m : Memory), b < a →
    (storeWords be ws a m).read b = m.read b
  | [], _, _, _, _ => rfl
  | w :: rest, a, b, m, h => by
    rw [storeWords, Memory.read_storeWords_below be rest _ (by omega), Memory.read_writeWord, if_neg (by omega)]

/-- The areas of the physical map by their bounds (R81, R82). -/
theorem regionOf_eq (p : Params) (pa : Word) (n : Nat) : regionOf p pa n =
    if pa.toNat + n ≤ p.romSize then .execRom
    else if 0x10000000 ≤ pa.toNat ∧ pa.toNat < 0x100002D0 then .device
    else if 0x1FC00000 ≤ pa.toNat ∧ pa.toNat + n ≤ 0x1FC00000 + p.bootSize then .bootRom
    else if 0x20000000 ≤ pa.toNat ∧ pa.toNat + n ≤ 0x20000000 + p.ramSize then .ram
    else .absent := by
  unfold regionOf
  simp only [Bool.and_eq_true, decide_eq_true_eq]
  rfl

/-- RAM begins at 0x20000000 (R81). -/
theorem regionOf_ram {p : Params} {pa : Word} {n : Nat} (h : regionOf p pa n = .ram) : 0x20000000 ≤ pa.toNat := by
  by_contra hlow
  rw [regionOf_eq, if_neg (c := 0x20000000 ≤ pa.toNat ∧ _) fun hram => hlow hram.1] at h
  (repeat' split at h) <;> cases h

theorem State.memWrite_sameLow {s t : State} {w : Width} {va v : Word} (h : s.memWrite w va v = .ok t) :
    SameLow s t := by
  obtain ⟨_, pa, _, hp⟩ := State.memWrite_ok h
  obtain ⟨hram, rfl⟩ | ⟨_, _, rfl⟩ := State.physWrite_ok hp
  · have hbase := regionOf_ram hram
    exact fun a ha => Memory.read_store_below _ _ _ _ (by omega)
  · exact .of_mem_eq (s.writeBus_frame _ v).2

theorem State.writeAround_sameLow {s t : State} {va : Word} {f : Word → Word} (h : s.writeAround va f = .ok t) :
    SameLow s t := by
  obtain ⟨pa, _, hram, rfl⟩ := State.writeAround_ok h
  have hbase := regionOf_ram hram
  exact fun a ha => Memory.read_store_below _ _ .word _ (by omega)

theorem State.cp0Write_mem {s t : State} {rd : RegIdx} {v : Word} (h : s.cp0Write rd v = some t) :
    t.mem = s.mem := by
  unfold State.cp0Write at h
  split at h <;> cases h <;> rfl

/-- No instruction changes a byte there, in any mode. -/
theorem Effect.sameLow {s t : State} (h : Effect s t) : SameLow s t := by
  cases h with
  | store hw => exact (State.memWrite_sameLow hw).trans (.of_mem_eq (State.retire_mem _ _))
  | storeAround hw => exact (State.writeAround_sameLow hw).trans (.of_mem_eq (State.retire_mem _ _))
  | cp0 _ hw => exact .of_mem_eq ((State.retire_mem _ _).trans (State.cp0Write_mem hw))
  | entry e => exact .of_mem_eq rfl
  | registers hi lo e => exact .of_mem_eq rfl
  | tlb _ v => exact .of_mem_eq rfl
  | tlbRead _ hi lo => exact .of_mem_eq rfl
  | probe _ v => exact .of_mem_eq rfl
  | rfe _ => exact .of_mem_eq rfl

/-! ### The agents -/

theorem State.agents_sameLow (s : State) : SameLow s s.agents := fun a ha => by
  rw [State.agents_eq, State.tick_mem]
  exact s.devicesTick_frame.lowMemory a ha

theorem State.runAgents_params : ∀ (n : Nat) (s : State), (State.runAgents n s).params = s.params
  | 0, _ => rfl
  | n + 1, s => by rw [State.runAgents, State.runAgents_params n, State.agents_params]

theorem State.runAgents_sameLow : ∀ (n : Nat) (s : State), SameLow s (State.runAgents n s)
  | 0, _ => .of_mem_eq rfl
  | n + 1, s => s.agents_sameLow.trans (State.runAgents_sameLow n s.agents)

/-! ### The ROM's routines -/

@[simp] theorem State.loadState_mem (s : State) (a : Word) : (s.loadState a).mem = s.mem := by
  rw [State.loadState, State.startAt_mem]

@[simp] theorem State.forkRegs_mem (s : State) (p : Word) : (s.forkRegs p).mem = s.mem := by
  rw [State.forkRegs]

@[simp] theorem State.forkLast_mem (s : State) (g : ForkRest) : (s.forkLast g).mem = s.mem := by
  rw [State.forkLast, State.startAt_mem]

@[simp] theorem State.forkPause_mem (s : State) (g : ForkRest) : (s.forkPause g).mem = s.mem := by
  rw [State.forkPause, State.startAt_mem]

@[simp] theorem State.refill_mem (s : State) (e : TlbEntry) : (s.refill e).mem = s.mem := by
  rw [State.refill, State.startAt_mem]

/-- What a ROM routine entered in `s` can leave in memory: it as it was, a processor state stored in one of the state
areas (R305, R309), or the tape's first file (R455). -/
inductive RomLeaves (s : State) (m : Memory) : Prop where
  | nothing (h : m = s.mem)
  | stored (a cause : Word) (ha : a ∈ s.params.areas.list) (h : m = (s.storeState a cause).mem)
  | tapeRead (h : m = s.bootTapeRead.mem)

/-- Passing up stores the state in an Old Area and loads the New Area's without a store (R304, R305). -/
theorem romLeaves_passUp {s : State} {old : Word} (new : Word) (h : old ∈ s.params.areas.list) :
    RomLeaves s (s.passUp old new).mem := .stored old s.causeRead h (State.loadState_mem _ _)

theorem romLeaves_passUpRefill (s : State) (code : BitVec 5) : RomLeaves s (s.passUpRefill code).mem :=
  .stored s.params.areas.tlbOld _ (by simp [StateAreas.list]) (State.loadState_mem _ _)

theorem romLdst_leaves {s t : State} (h : romLdst s = .next t) : RomLeaves s t.mem := by
  unfold romLdst at h
  dsimp only at h
  split at h <;> cases h
  exact .nothing (State.loadState_mem _ _)

theorem romFork_leaves {s t : State} (h : romFork s = .next t) : RomLeaves s t.mem := by
  unfold romFork at h
  dsimp only at h
  split at h
  · cases h
  · split at h <;> cases h
    · exact .nothing (by rw [State.forkPause_mem, State.forkRegs_mem])
    · exact .nothing (by rw [State.forkLast_mem, State.forkRegs_mem])

theorem romEnd_leaves {s t : State} {text : List Byte} {how : RunEnd} (h : romEnd s text how = .next t) :
    RomLeaves s t.mem := by
  cases h
  exact .nothing rfl

theorem romBreak_leaves {s t : State} (h : romBreak s = .next t) : RomLeaves s t.mem := by
  have hold : s.params.areas.sysBpOld ∈ s.params.areas.list := by simp [StateAreas.list]
  unfold romBreak at h
  dsimp only at h
  split at h
  · cases h; exact romLeaves_passUp _ hold
  · split at h
    · exact romLdst_leaves h
    · split at h
      · exact romFork_leaves h
      · split at h
        · exact romEnd_leaves h
        · split at h
          · exact romEnd_leaves h
          · cases h; exact romLeaves_passUp _ hold

theorem romExcpt_leaves {s t : State} (h : romExcpt s = .next t) : RomLeaves s t.mem := by
  unfold romExcpt at h
  dsimp only at h
  split at h
  case h_10 => exact romBreak_leaves h
  case h_14 => cases h
  all_goals cases h; exact romLeaves_passUp _ (by simp [StateAreas.list])

theorem romRefill_leaves {s t : State} (h : romRefill s = .next t) : RomLeaves s t.mem := by
  unfold romRefill at h
  dsimp only at h
  split at h
  · cases h; exact romLeaves_passUpRefill s _
  · split at h <;> cases h
    · exact .nothing (State.refill_mem _ _)
    · exact romLeaves_passUpRefill s _

theorem romBoot_leaves {s t : State} (h : romBoot s = .next t) : RomLeaves s t.mem := by
  unfold romBoot at h
  dsimp only at h
  split at h
  · cases h
  · split at h
    · cases h
    · cases h
      rw [State.startAt_mem]
      split
      · exact .tapeRead rfl
      · exact .nothing rfl

theorem romRoutine_leaves {s t : State} (h : romRoutine s = .next t) : RomLeaves s t.mem := by
  unfold romRoutine at h
  split at h
  · exact romRefill_leaves h
  · split at h
    · exact romExcpt_leaves h
    · split at h
      · exact romBoot_leaves h
      · cases h

/-- The state areas are in RAM (R303, D14). -/
theorem Params.wf_area_base {p : Params} (hwf : p.wf = true) {a : Word} (ha : a ∈ p.areas.list) :
    0x20000000 ≤ a.toNat := by
  have hareas : p.areas.wf = true := by
    simp only [Params.wf, Bool.and_eq_true] at hwf
    exact hwf.1.1.2
  rw [StateAreas.wf, Bool.and_eq_true, List.all_eq_true] at hareas
  have harea := hareas.1 a ha
  simp only [Bool.and_eq_true, decide_eq_true_eq] at harea
  omega

theorem readFile_read_below : ∀ (blocks : List TapeBlock) {a b : Nat} (m : Memory) (n : Nat), b < a →
    (readFile blocks a m n).1.read b = m.read b
  | [], _, _, _, _, _ => rfl
  | blk :: rest, a, b, m, n, h => by
    have copied := Memory.read_copyWords_below (fun _ => true) blk.data 0 a b h 1024 m
    rw [readFile]
    split
    · exact copied
    · rw [readFile_read_below rest _ _ (by omega), copied]

theorem RomLeaves.sameLow {s t : State} (h : RomLeaves s t.mem) (hwf : s.params.wf = true) : SameLow s t := by
  cases h with
  | nothing h => exact .of_mem_eq h
  | stored a cause ha h =>
    have hbase := Params.wf_area_base hwf ha
    intro b hb
    rw [h]
    exact Memory.read_storeWords_below _ _ _ (by omega)
  | tapeRead h =>
    intro b hb
    rw [h]
    exact readFile_read_below _ _ _ (by omega)

/-- A fetch the ROM contract replaces: the routine's further cycles, then the routine (R300). -/
theorem romStep_sameLow {s t : State} (hwf : s.params.wf = true) (h : romStep s = .next t) : SameLow s t := by
  have cycles := s.runAgents_sameLow (n := Config.freeNat .romCycles s.draws)
  unfold romStep at h
  dsimp only at h
  split at h
  · cases h; exact cycles.trans (.of_mem_eq (State.forkLast_mem _ _))
  · split at h
    · have landed := cycles.trans (.of_mem_eq (State.commitLoad_mem _))
      refine landed.trans ((romRoutine_leaves h).sameLow ?_)
      rw [State.commitLoad_params, State.runAgents_params]
      exact hwf
    · cases h

/-! ### The step -/

theorem Turn.sameLow {u t : State} (h : Turn u t) (hwf : u.params.wf = true) : SameLow u t := by
  cases h with
  | ended _ => exact .of_mem_eq rfl
  | entry e => exact .of_mem_eq rfl
  | instruction he => exact he.sameLow
  | rom _ hr => exact romStep_sameLow hwf hr

/-- Settles O57: neither the agents nor any turn of the machine changes a byte there. -/
theorem romNeverChanges : Obligations.RomNeverChanges := by
  unfold Obligations.RomNeverChanges
  intro s t hquiet hstep
  obtain ⟨hwf, hturn⟩ := step_turn_quiet hquiet hstep
  have hagents : s.agents.params.wf = true := by rw [State.agents_params]; exact hwf
  exact s.agents_sameLow.trans (hturn.sameLow hagents)

end Sys2Proof.Machine
end

section
/-! SUPPORT. The access path (R96) by what stops it: alignment, the user-mode range, translation, a bus error. Each
load, store and fetch that is stopped is said once to take the exception. -/

namespace Sys2Proof.Machine

/-! ### Alignment (R88) -/

theorem misaligned_half (va : Word) : misaligned .half va = !decide (va.toNat % 2 = 0) := by
  have h : va.extractLsb' 0 1 = 0#1 ↔ va.toNat % 2 = 0 := by
    rw [← BitVec.toNat_inj, BitVec.extractLsb'_toNat]
    simp
  rw [misaligned, ← decide_not]
  exact decide_eq_decide.2 (not_congr h)

theorem misaligned_word (va : Word) : misaligned .word va = !decide (va.toNat % 4 = 0) := by
  have h : va.extractLsb' 0 2 = 0#2 ↔ va.toNat % 4 = 0 := by
    rw [← BitVec.toNat_inj, BitVec.extractLsb'_toNat]
    simp
  rw [misaligned, ← decide_not]
  exact decide_eq_decide.2 (not_congr h)

/-! ### The user-mode range (R89) -/

theorem State.forbidden_iff (s : State) (va : Word) : s.forbidden va = true ↔
    bitAt s.status 1 = true ∧
      ((bitAt s.status 24 = false ∧ va.toNat < 0x20000000) ∨ (bitAt s.status 24 = true ∧ va.toNat < 0x80000000)) := by
  unfold State.forbidden State.userMode State.vmOn bitAt
  cases s.status.getLsbD 1 <;> cases s.status.getLsbD 24 <;> simp

theorem State.resolve_forbidden {s : State} {va : Word} (kind : AccessKind) (h : s.forbidden va = true) :
    s.resolve kind va = .raise (addressError kind va) := by
  rw [State.resolve, if_pos h]

/-! ### Translation (R104) -/

/-- A translated address: the entry's frame and the address's offset (R104). -/
theorem physOf_eq (lo va : Word) : physOf lo va = lo.extractLsb' 12 20 ++ va.extractLsb' 0 12 := by
  apply BitVec.eq_of_getLsbD_eq
  intro i hi
  rw [physOf, getLsbD_mergeBits, getLsbD_pageMask i hi, BitVec.getLsbD_append]
  by_cases h : 12 ≤ i
  · simp [h, show ¬ i < 12 by omega, show i - 12 < 20 by omega, show 12 + (i - 12) = i by omega]
  · simp [h, show i < 12 by omega]

theorem TlbEntry.hits_iff (t : TlbEntry) (page : BitVec 20) (asid : BitVec 6) : t.hits page asid = true ↔
    t.hi.extractLsb' 12 20 = page ∧ (bitAt t.lo 8 = true ∨ t.hi.extractLsb' 6 6 = asid) := by
  rw [TlbEntry.hits, Bool.and_eq_true, Bool.or_eq_true, decide_eq_true_eq, decide_eq_true_eq]
  rfl

/-- A TLB-Refill event, by the access's use (R105). -/
def refillEvent (kind : AccessKind) (va : Word) : Exc := if kind = .store then .refillS va else .refillL va

/-- TLB Invalid, by the access's use (R105). -/
def tlbInvalid (kind : AccessKind) (va : Word) : Exc := if kind = .store then .tlbs va else .tlbl va

section
variable {s : State} {va : Word} {k : Nat} (kind : AccessKind)

theorem State.translate_missed (h : s.tlbLookup (va.extractLsb' 12 20) = none) :
    s.translate kind va = .raise (refillEvent kind va) := by
  unfold State.translate pageOf
  rw [h]
  rfl

theorem State.translate_invalid (h : s.tlbLookup (va.extractLsb' 12 20) = some k)
    (hv : bitAt (s.tlbAt k).lo 9 = false) : s.translate kind va = .raise (tlbInvalid kind va) := by
  have hlo : (s.tlbAt k).lo.getLsbD 9 = false := hv
  unfold State.translate pageOf
  rw [h]
  dsimp only
  rw [hlo]
  rfl

theorem State.translate_readOnly (h : s.tlbLookup (va.extractLsb' 12 20) = some k)
    (hv : bitAt (s.tlbAt k).lo 9 = true) (hd : bitAt (s.tlbAt k).lo 10 = false) :
    s.translate .store va = .raise (.mod va) := by
  have hlo : (s.tlbAt k).lo.getLsbD 9 = true := hv
  have hlo' : (s.tlbAt k).lo.getLsbD 10 = false := hd
  unfold State.translate pageOf
  rw [h]
  dsimp only
  rw [hlo, hlo']
  rfl

theorem State.translate_valid (h : s.tlbLookup (va.extractLsb' 12 20) = some k)
    (hv : bitAt (s.tlbAt k).lo 9 = true) (hd : kind = .store → bitAt (s.tlbAt k).lo 10 = true) :
    s.translate kind va = .ok ((s.tlbAt k).lo.extractLsb' 12 20 ++ va.extractLsb' 0 12) := by
  have hlo : (s.tlbAt k).lo.getLsbD 9 = true := hv
  have hwritable : (decide (kind = .store) && !(s.tlbAt k).lo.getLsbD 10) = false := by
    by_cases hk : kind = .store
    · have hlo' : (s.tlbAt k).lo.getLsbD 10 = true := hd hk
      simp [hlo']
    · simp [hk]
  unfold State.translate pageOf
  rw [h, ← physOf_eq]
  dsimp only
  rw [hlo, hwritable]
  rfl

/-- An address that is translated (R89, R102). -/
theorem State.resolve_translated (hvm : bitAt s.status 24 = true) (hbase : 0x20000000 ≤ va.toNat)
    (huser : bitAt s.status 1 = true → 0x80000000 ≤ va.toNat) : s.resolve kind va = s.translate kind va := by
  have hallowed : ¬ s.forbidden va = true := by
    rw [s.forbidden_iff]
    rintro ⟨hu, ⟨hoff, _⟩ | ⟨_, hlow⟩⟩
    · rw [hvm] at hoff; cases hoff
    · have := huser hu; omega
  have hon : s.vmOn = true := hvm
  rw [State.resolve, if_neg hallowed, if_neg (by simp [hon, hbase])]

/-- Where an access comes to is what the access path resolves its address to (R96). -/
theorem State.resolve_comesTo {pa : Word} (h : s.comesTo (decide (kind = .store)) va pa) :
    s.resolve kind va = .ok pa := by
  obtain ⟨rfl, hkernel, hdirect⟩ | ⟨rfl, _, hvm, hbase⟩ | ⟨hvm, hbase, huser, k, hfind, hvalid, hwritable, rfl⟩ := h
  · exact s.resolve_physical kind pa hkernel hdirect
  · have hallowed : ¬ s.forbidden pa = true := by
      rw [s.forbidden_iff]
      rintro ⟨_, ⟨_, hlow⟩ | ⟨hon, _⟩⟩
      · omega
      · rw [hvm] at hon; cases hon
    have hoff : s.vmOn = false := hvm
    rw [State.resolve, if_neg hallowed, if_pos (by simp [hoff])]
  · rw [State.resolve_translated kind hvm hbase huser]
    exact State.translate_valid kind hfind hvalid fun hk => hwritable (decide_eq_true hk)

end

/-! ### Bus errors (R91, R93) -/

theorem toNat_wordAddr (a : Word) : (wordAddr a).toNat = a.toNat / 4 * 4 := by
  have h : wordAddr a = (a >>> 2) <<< 2 := by
    apply BitVec.eq_of_getLsbD_eq
    intro i hi
    have hmask : ∀ j : Nat, j < 32 → (0xFFFFFFFC#32).getLsbD j = decide (2 ≤ j) := by decide
    rw [wordAddr, BitVec.getLsbD_and, hmask i hi, BitVec.getLsbD_shiftLeft, BitVec.getLsbD_ushiftRight]
    by_cases hlow : 2 ≤ i
    · simp [hlow, hi, show ¬ i < 2 by omega, show 2 + (i - 2) = i by omega]
    · simp [hlow, show i < 2 by omega]
  have hlt := a.isLt
  rw [h, BitVec.toNat_shiftLeft, BitVec.toNat_ushiftRight, Nat.shiftLeft_eq, Nat.shiftRight_eq_div_pow]
  omega

/-- The sizes of an allowed configuration: whole words, each area below the next (R7, R82). -/
theorem Params.wf_sizes {p : Params} (h : p.wf = true) :
    p.romSize ≤ 0x10000000 ∧ p.romSize % 4 = 0 ∧ p.bootSize ≤ 0x400000 ∧ p.bootSize % 4 = 0 ∧ p.ramSize % 4 = 0 := by
  simp only [Params.wf, Bool.and_eq_true, decide_eq_true_eq] at h
  omega

/-- A physical address of one of the two ROMs (R81, R82). -/
def romInstalled (p : Params) (pa : Word) : Prop :=
  pa.toNat < p.romSize ∨ (0x1FC00000 ≤ pa.toNat ∧ pa.toNat < 0x1FC00000 + p.bootSize)

section
variable {p : Params} {pa : Word}

theorem regionOf_notInstalled (hwf : p.wf = true) (h : notInstalled p pa) {n : Nat} (hn : 0 < n) :
    regionOf p pa n = .absent := by
  have hsizes := Params.wf_sizes hwf
  unfold notInstalled at h
  rw [regionOf_eq, if_neg (by omega), if_neg (by omega), if_neg (by omega), if_neg (by omega)]

/-- An access that begins in ROM is to no area a store changes. -/
theorem regionOf_romInstalled (hwf : p.wf = true) (h : romInstalled p pa) (n : Nat) :
    regionOf p pa n ≠ .ram ∧ regionOf p pa n ≠ .device := by
  have hsizes := Params.wf_sizes hwf
  unfold romInstalled at h
  rw [regionOf_eq]
  split
  · simp
  · rw [if_neg (by omega)]
    split
    · simp
    · rw [if_neg (by omega)]; simp

theorem notInstalled_wordAddr (hwf : p.wf = true) (h : notInstalled p pa) : notInstalled p (wordAddr pa) := by
  have hsizes := Params.wf_sizes hwf
  unfold notInstalled at h ⊢
  rw [toNat_wordAddr]
  omega

theorem romInstalled_wordAddr (h : romInstalled p pa) : romInstalled p (wordAddr pa) := by
  unfold romInstalled at h ⊢
  rw [toNat_wordAddr]
  omega

/-- What a store cannot reach: nothing there, or ROM (R91, R93). -/
theorem regionOf_notStorable (hwf : p.wf = true) (h : notInstalled p pa ∨ romInstalled p pa) {n : Nat} (hn : 0 < n) :
    regionOf p pa n ≠ .ram ∧ regionOf p pa n ≠ .device := by
  obtain h | h := h
  · simp [regionOf_notInstalled hwf h hn]
  · exact regionOf_romInstalled hwf h n

end

theorem Width.bytes_pos (w : Width) : 0 < w.bytes := by cases w <;> decide

theorem State.physRead_absent {s : State} {w : Width} {pa : Word} (kind : AccessKind)
    (h : regionOf s.params pa w.bytes = .absent) : s.physRead kind w pa = .raise (busError kind) := by
  rw [State.physRead, h]

theorem State.physWrite_notStorable {s : State} {w : Width} {pa : Word} (v : Word)
    (h : regionOf s.params pa w.bytes ≠ .ram ∧ regionOf s.params pa w.bytes ≠ .device) :
    s.physWrite w pa v = .raise .dbe := by
  unfold State.physWrite
  split
  · exact absurd ‹_› h.1
  · exact absurd ‹_› h.2
  · rfl

/-! ### The accesses of the loads and stores -/

/-- The accesses of the loads at `va`, with whether they are aligned: LB to LW's own, and LWL and LWR's to the word
that holds `va` (R88, R96, R241). -/
inductive LoadAccess (s : State) (va : Word) : Bool → Access Word → Prop where
  | own (w : Width) : LoadAccess s va (!misaligned w va) (s.memRead .load w va)
  | around : LoadAccess s va true (s.readAround va)

/-- The same of the stores. -/
inductive StoreAccess (s : State) (va : Word) : Bool → Access State → Prop where
  | own (w : Width) (v : Word) : StoreAccess s va (!misaligned w va) (s.memWrite w va v)
  | around (merge : Word → Word) : StoreAccess s va true (s.writeAround va merge)

theorem LoadAccess.half (s : State) (va : Word) :
    LoadAccess s va (decide (va.toNat % 2 = 0)) (s.memRead .load .half va) := by
  have h := LoadAccess.own (s := s) (va := va) .half
  rwa [misaligned_half, Bool.not_not] at h

theorem LoadAccess.word (s : State) (va : Word) :
    LoadAccess s va (decide (va.toNat % 4 = 0)) (s.memRead .load .word va) := by
  have h := LoadAccess.own (s := s) (va := va) .word
  rwa [misaligned_word, Bool.not_not] at h

theorem StoreAccess.half (s : State) (va v : Word) :
    StoreAccess s va (decide (va.toNat % 2 = 0)) (s.memWrite .half va v) := by
  have h := StoreAccess.own (s := s) (va := va) .half v
  rwa [misaligned_half, Bool.not_not] at h

theorem StoreAccess.word (s : State) (va v : Word) :
    StoreAccess s va (decide (va.toNat % 4 = 0)) (s.memWrite .word va v) := by
  have h := StoreAccess.own (s := s) (va := va) .word v
  rwa [misaligned_word, Bool.not_not] at h

section
variable {s : State} {va : Word} {i : Instr} {rt rs : RegIdx} {imm : BitVec 16}

/-- Every load is its access and the end of a load. -/
theorem exec_load (hi : i ∈ loadsOf rt rs imm) (hva : va = s.rs rs + imm.signExtend 32) :
    ∃ f a, LoadAccess s va (mayAccess i va) a ∧ exec i s = finishLoad s rt f a := by
  subst hva
  simp only [loadsOf, List.mem_cons, List.not_mem_nil, or_false] at hi
  obtain rfl | rfl | rfl | rfl | rfl | rfl | rfl := hi
  · exact ⟨_, _, .own .byte, rfl⟩
  · exact ⟨_, _, .own .byte, rfl⟩
  · exact ⟨_, _, .half s _, rfl⟩
  · exact ⟨_, _, .half s _, rfl⟩
  · exact ⟨_, _, .word s _, rfl⟩
  · exact ⟨_, _, .around, rfl⟩
  · exact ⟨_, _, .around, rfl⟩

/-- Every store is its access and the end of a store. -/
theorem exec_store (hi : i ∈ storesOf rt rs imm) (hva : va = s.rs rs + imm.signExtend 32) :
    ∃ a, StoreAccess s va (mayAccess i va) a ∧ exec i s = finishStore s a := by
  subst hva
  simp only [storesOf, List.mem_cons, List.not_mem_nil, or_false] at hi
  obtain rfl | rfl | rfl | rfl | rfl := hi
  · exact ⟨_, .own .byte _, rfl⟩
  · exact ⟨_, .half s _ _, rfl⟩
  · exact ⟨_, .word s _ _, rfl⟩
  · exact ⟨_, .around _, rfl⟩
  · exact ⟨_, .around _, rfl⟩

/-! ### What stops an access -/

theorem LoadAccess.misaligned {a : Access Word} (h : LoadAccess s va false a) : a = .raise (.adel va) := by
  generalize hb : false = b at h
  cases h with
  | own w =>
    have hm : Machine.misaligned w va = true := by simpa using hb.symm
    rw [State.memRead, if_pos hm]; rfl
  | around => cases hb

theorem StoreAccess.misaligned {a : Access State} (h : StoreAccess s va false a) : a = .raise (.ades va) := by
  generalize hb : false = b at h
  cases h with
  | own w v =>
    have hm : Machine.misaligned w va = true := by simpa using hb.symm
    rw [State.memWrite, if_pos hm]
  | around => cases hb

/-- An aligned access of a load is an aligned one of its own width, or LWL and LWR's. -/
theorem LoadAccess.aligned {a : Access Word} (h : LoadAccess s va true a) :
    (∃ w, Machine.misaligned w va = false ∧ a = s.memRead .load w va) ∨ a = s.readAround va := by
  generalize hb : true = b at h
  cases h with
  | own w => exact .inl ⟨w, by simpa using hb.symm, rfl⟩
  | around => exact .inr rfl

/-- An aligned access of a store is an aligned one of its own width, or SWL and SWR's. -/
theorem StoreAccess.aligned {a : Access State} (h : StoreAccess s va true a) :
    (∃ w v, Machine.misaligned w va = false ∧ a = s.memWrite w va v) ∨ ∃ merge, a = s.writeAround va merge := by
  generalize hb : true = b at h
  cases h with
  | own w v => exact .inl ⟨w, v, by simpa using hb.symm, rfl⟩
  | around merge => exact .inr ⟨merge, rfl⟩

theorem LoadAccess.unresolved {a : Access Word} (h : LoadAccess s va true a) {e : Exc}
    (he : s.resolve .load va = .raise e) : a = .raise e := by
  obtain ⟨w, hm, rfl⟩ | rfl := h.aligned
  · rw [State.memRead, if_neg (by simp [hm]), he]
  · rw [State.readAround, he]

theorem StoreAccess.unresolved {a : Access State} (h : StoreAccess s va true a) {e : Exc}
    (he : s.resolve .store va = .raise e) : a = .raise e := by
  obtain ⟨w, v, hm, rfl⟩ | ⟨merge, rfl⟩ := h.aligned
  · rw [State.memWrite, if_neg (by simp [hm]), he]
  · rw [State.writeAround, he]

theorem LoadAccess.notInstalled {a : Access Word} {pa : Word} (h : LoadAccess s va true a)
    (hwf : s.params.wf = true) (hpa : s.resolve .load va = .ok pa) (habsent : notInstalled s.params pa) :
    a = .raise .dbe := by
  obtain ⟨w, hm, rfl⟩ | rfl := h.aligned
  · rw [State.memRead, if_neg (by simp [hm]), hpa]
    exact State.physRead_absent .load (regionOf_notInstalled hwf habsent w.bytes_pos)
  · have hregion : regionOf s.params (wordAddr pa) 4 = .absent :=
      regionOf_notInstalled hwf (notInstalled_wordAddr hwf habsent) (by omega)
    rw [State.readAround, hpa]
    dsimp only
    rw [if_neg (by simp [hregion])]
    exact State.physRead_absent .load hregion

theorem StoreAccess.notStorable {a : Access State} {pa : Word} (h : StoreAccess s va true a)
    (hwf : s.params.wf = true) (hpa : s.resolve .store va = .ok pa)
    (hno : notInstalled s.params pa ∨ romInstalled s.params pa) : a = .raise .dbe := by
  obtain ⟨w, v, hm, rfl⟩ | ⟨merge, rfl⟩ := h.aligned
  · rw [State.memWrite, if_neg (by simp [hm]), hpa]
    exact State.physWrite_notStorable v (regionOf_notStorable hwf hno w.bytes_pos)
  · have haround := hno.imp (notInstalled_wordAddr hwf) romInstalled_wordAddr
    obtain ⟨hram, hdevice⟩ := regionOf_notStorable hwf haround (n := 4) (by omega)
    rw [State.writeAround, hpa]
    dsimp only
    split
    · exact absurd ‹_› hram
    · exact absurd ‹_› hdevice
    · rfl

/-! ### Loads and stores that are stopped -/

/-- A load whose access raises an exception takes it. -/
theorem exec_load_raises (hi : i ∈ loadsOf rt rs imm) (hva : va = s.rs rs + imm.signExtend 32) {e : Exc}
    (h : ∀ a, LoadAccess s va (mayAccess i va) a → a = .raise e) : exec i s = raise e s := by
  obtain ⟨f, a, ha, hexec⟩ := exec_load hi hva
  rw [hexec, h a ha]
  rfl

/-- A store whose access raises an exception takes it. -/
theorem exec_store_raises (hi : i ∈ storesOf rt rs imm) (hva : va = s.rs rs + imm.signExtend 32) {e : Exc}
    (h : ∀ a, StoreAccess s va (mayAccess i va) a → a = .raise e) : exec i s = raise e s := by
  obtain ⟨a, ha, hexec⟩ := exec_store hi hva
  rw [hexec, h a ha]
  rfl

theorem exec_load_misaligned (hi : i ∈ loadsOf rt rs imm) (hva : va = s.rs rs + imm.signExtend 32)
    (hm : mayAccess i va = false) : exec i s = raise (.adel va) s :=
  exec_load_raises hi hva fun _ ha => (hm ▸ ha).misaligned

theorem exec_store_misaligned (hi : i ∈ storesOf rt rs imm) (hva : va = s.rs rs + imm.signExtend 32)
    (hm : mayAccess i va = false) : exec i s = raise (.ades va) s :=
  exec_store_raises hi hva fun _ ha => (hm ▸ ha).misaligned

theorem exec_load_unresolved (hi : i ∈ loadsOf rt rs imm) (hva : va = s.rs rs + imm.signExtend 32)
    (hm : mayAccess i va = true) {e : Exc} (he : s.resolve .load va = .raise e) : exec i s = raise e s :=
  exec_load_raises hi hva fun _ ha => (hm ▸ ha).unresolved he

theorem exec_store_unresolved (hi : i ∈ storesOf rt rs imm) (hva : va = s.rs rs + imm.signExtend 32)
    (hm : mayAccess i va = true) {e : Exc} (he : s.resolve .store va = .raise e) : exec i s = raise e s :=
  exec_store_raises hi hva fun _ ha => (hm ▸ ha).unresolved he

theorem exec_load_notInstalled (hi : i ∈ loadsOf rt rs imm) (hva : va = s.rs rs + imm.signExtend 32)
    (hm : mayAccess i va = true) (hwf : s.params.wf = true) {pa : Word} (hpa : s.resolve .load va = .ok pa)
    (habsent : notInstalled s.params pa) : exec i s = raise .dbe s :=
  exec_load_raises hi hva fun _ ha => (hm ▸ ha).notInstalled hwf hpa habsent

theorem exec_store_notStorable (hi : i ∈ storesOf rt rs imm) (hva : va = s.rs rs + imm.signExtend 32)
    (hm : mayAccess i va = true) (hwf : s.params.wf = true) {pa : Word} (hpa : s.resolve .store va = .ok pa)
    (hno : notInstalled s.params pa ∨ romInstalled s.params pa) : exec i s = raise .dbe s :=
  exec_store_raises hi hva fun _ ha => (hm ▸ ha).notStorable hwf hpa hno

end

/-! ### Fetches that are stopped -/

/-- The cycle of a machine that comes to fetch is its fetch. -/
theorem ReadyToFetch.cycle_eq {r s : State} (h : ReadyToFetch r s) : r.cycle = fetchStep s := by
  obtain ⟨hagents, hwf, hended, hint⟩ := h
  have turn (u : State) (hu : u.agents = s) : u.machineTurn = fetchStep s := by
    have huwf : u.params.wf = true := by rw [← hu, State.agents_params] at hwf; exact hwf
    rw [machineTurn_eq u s hu, if_pos huwf, if_neg (by simp [hended]), if_neg (by simp [hint])]
  unfold State.cycle
  obtain ⟨hi, hu⟩ | ⟨acts, rest, hi, hu⟩ := hagents
  · rw [hi]; exact turn r hu.symm
  · rw [hi]; exact turn _ hu.symm

theorem step_fetch_raises {r s : State} (h : ReadyToFetch r s) (hc : s.contractFetch = false) {e : Exc}
    (he : s.memRead .fetch .word s.pc = .raise e) : step r = raise e s := by
  rw [step, h.cycle_eq, fetchStep, if_neg (by simp [hc]), he]

/-- A fetch that reaches no physical address is none the ROM contract replaces (R300). -/
theorem State.contractFetch_unreached {s : State} (h : s.fetchAddr = none) : s.contractFetch = false := by
  rw [State.contractFetch, h, Bool.and_false]

theorem step_fetch_misaligned {r s : State} (h : ReadyToFetch r s) (hm : s.pc.toNat % 4 ≠ 0) :
    step r = raise (.adel s.pc) s := by
  have hmis : misaligned .word s.pc = true := by simp [misaligned_word, hm]
  refine step_fetch_raises h (State.contractFetch_unreached ?_) ?_
  · rw [State.fetchAddr, if_pos hmis]
  · rw [State.memRead, if_pos hmis]; rfl

section
variable {r s : State} (h : ReadyToFetch r s) (haligned : s.pc.toNat % 4 = 0)
include h haligned

theorem step_fetch_unresolved {e : Exc} (he : s.resolve .fetch s.pc = .raise e) : step r = raise e s := by
  have hal : ¬ misaligned .word s.pc = true := by simp [misaligned_word, haligned]
  refine step_fetch_raises h (State.contractFetch_unreached ?_) ?_
  · rw [State.fetchAddr, if_neg hal, he]
  · rw [State.memRead, if_neg hal, he]

theorem step_fetch_notInstalled (hwf : s.params.wf = true) {pa : Word} (hpa : s.resolve .fetch s.pc = .ok pa)
    (habsent : notInstalled s.params pa) : step r = raise .ibe s := by
  have hal : ¬ misaligned .word s.pc = true := by simp [misaligned_word, haligned]
  have hregion : regionOf s.params pa 4 = .absent := regionOf_notInstalled hwf habsent (by omega)
  refine step_fetch_raises h ?_ ?_
  · rw [State.contractFetch, State.fetchAddr, if_neg hal, hpa]
    simp [inRom, hregion]
  · rw [State.memRead, if_neg hal, hpa]
    exact State.physRead_absent .fetch hregion

end

/-! ### The entries of translation's exceptions -/

theorem raise_refillEvent (s : State) (kind : AccessKind) (va : Word) : ∃ t, raise (refillEvent kind va) s = .next t ∧
    EntersTlb s t (if kind = .store then 3#5 else 2#5) va (refillVector s) := by
  cases kind
  case store => exact vectorOf_refill s (.refillS va) rfl ▸ raise_tlb s (.refillS va) va rfl rfl
  all_goals exact vectorOf_refill s (.refillL va) rfl ▸ raise_tlb s (.refillL va) va rfl rfl

theorem raise_tlbInvalid (s : State) (kind : AccessKind) (va : Word) : ∃ t, raise (tlbInvalid kind va) s = .next t ∧
    EntersTlb s t (if kind = .store then 3#5 else 2#5) va (generalVector s) := by
  cases kind
  case store => exact vectorOf_general s (.tlbs va) rfl ▸ raise_tlb s (.tlbs va) va rfl rfl
  all_goals exact vectorOf_general s (.tlbl va) rfl ▸ raise_tlb s (.tlbl va) va rfl rfl

theorem raise_mod (s : State) (va : Word) : ∃ t, raise (.mod va) s = .next t ∧
    EntersTlb s t 1#5 va (generalVector s) :=
  vectorOf_general s (.mod va) rfl ▸ raise_tlb s (.mod va) va rfl rfl

theorem raise_adel (s : State) (va : Word) : ∃ t, raise (.adel va) s = .next t ∧ EntersAddress s t 4#5 va :=
  raise_address s (.adel va) va rfl rfl rfl

theorem raise_ades (s : State) (va : Word) : ∃ t, raise (.ades va) s = .next t ∧ EntersAddress s t 5#5 va :=
  raise_address s (.ades va) va rfl rfl rfl

end Sys2Proof.Machine
end

section
/-! SUPPORT. The statements of 20_memory.md, from what stops an access and the entry each exception makes. -/

namespace Sys2Proof.Machine

/-- Settles O22: alignment is the first test of an access (R96). -/
theorem misalignedAccessesTrap : Obligations.MisalignedAccessesTrap := by
  unfold Obligations.MisalignedAccessesTrap
  intro s rt rs imm va hva
  refine ⟨fun i hi hm => ?_, fun i hi hm => ?_, fun r hr hm => ?_⟩
  · rw [exec_load_misaligned hi hva hm]; exact raise_adel s va
  · rw [exec_store_misaligned hi hva hm]; exact raise_ades s va
  · rw [step_fetch_misaligned hr hm]; exact raise_adel s s.pc

/-- Settles O23: the range is tested before translation, and a misaligned access below it makes the same entry. -/
theorem userModeRangeTraps : Obligations.UserModeRangeTraps := by
  unfold Obligations.UserModeRangeTraps
  intro s va huser hlow
  have hforbidden : s.forbidden va = true := (s.forbidden_iff va).2 ⟨huser, hlow⟩
  refine ⟨fun rt rs imm hva => ⟨fun i hi => ?_, fun i hi => ?_⟩, fun r hr hpc => ?_⟩
  · cases hm : mayAccess i va with
    | false => rw [exec_load_misaligned hi hva hm]; exact raise_adel s va
    | true => rw [exec_load_unresolved hi hva hm (s.resolve_forbidden .load hforbidden)]; exact raise_adel s va
  · cases hm : mayAccess i va with
    | false => rw [exec_store_misaligned hi hva hm]; exact raise_ades s va
    | true => rw [exec_store_unresolved hi hva hm (s.resolve_forbidden .store hforbidden)]; exact raise_ades s va
  · subst hpc
    by_cases haligned : s.pc.toNat % 4 = 0
    · rw [step_fetch_unresolved hr haligned (s.resolve_forbidden .fetch hforbidden)]; exact raise_adel s s.pc
    · rw [step_fetch_misaligned hr haligned]; exact raise_adel s s.pc

/-- Settles O24: the address an access comes to is the one it resolves to, and no memory there answers. -/
theorem busErrorsTrap : Obligations.BusErrorsTrap := by
  unfold Obligations.BusErrorsTrap
  intro s va pa hwf
  refine ⟨fun hcomes habsent => ⟨fun rt rs imm hva i hi hm => ?_, fun r hr hpc haligned => ?_⟩,
    fun hcomes hno rt rs imm hva i hi hm => ?_⟩
  · rw [exec_load_notInstalled hi hva hm hwf (State.resolve_comesTo .load hcomes) habsent]
    exact raise_plain s .dbe rfl rfl rfl
  · subst hpc
    rw [step_fetch_notInstalled hr haligned hwf (State.resolve_comesTo .fetch hcomes) habsent]
    exact raise_plain s .ibe rfl rfl rfl
  · rw [exec_store_notStorable hi hva hm hwf (State.resolve_comesTo .store hcomes) hno]
    exact raise_plain s .dbe rfl rfl rfl

/-- Settles O25: the search runs from the highest slot down. -/
theorem translationUsesHighestMatch : Obligations.TranslationUsesHighestMatch := by
  unfold Obligations.TranslationUsesHighestMatch
  intro s va matching _ hmatching
  have hits (k : Nat) : matching k ↔
      k < s.params.tlbSize ∧ (s.tlbAt k).hits (va.extractLsb' 12 20) (asidOf s.entryHi) = true := by
    rw [hmatching, TlbEntry.hits_iff]
    rfl
  simp only [hits, State.tlbLookup, State.tlbFind_some, State.tlbFind_none]
  refine ⟨fun k => ⟨fun ⟨hlt, hk, habove⟩ => ⟨⟨hlt, hk⟩, fun j ⟨hj, hhit⟩ => ?_⟩,
    fun ⟨⟨hlt, hk⟩, hmax⟩ => ⟨hlt, hk, fun j hkj hj => ?_⟩⟩, ?_⟩
  · by_contra hjk
    rw [habove j (by omega) hj] at hhit
    cases hhit
  · by_contra hhit
    have := hmax j ⟨hj, by simpa using hhit⟩
    omega
  · simp only [not_and, Bool.not_eq_true]

/-- Settles O26: V is looked at before D, which only a store needs. -/
theorem translationOutcomes : Obligations.TranslationOutcomes := by
  unfold Obligations.TranslationOutcomes
  intro s va
  refine ⟨fun hmiss => ⟨State.translate_missed .load hmiss, State.translate_missed .store hmiss⟩, fun k hk => ⟨?_, ?_⟩⟩
  · exact fun hv => ⟨State.translate_invalid .load hk hv, State.translate_invalid .store hk hv⟩
  · exact fun hv => ⟨State.translate_valid .load hk hv nofun, State.translate_readOnly hk hv,
      fun hd => State.translate_valid .store hk hv fun _ => hd⟩

/-- Settles O27: what translation raises, the load, store or fetch raises, and each exception has its entry. -/
theorem translationExceptionsEnter : Obligations.TranslationExceptionsEnter := by
  unfold Obligations.TranslationExceptionsEnter
  intro s va hvm hbase huser
  have resolves (kind : AccessKind) : s.resolve kind va = s.translate kind va :=
    State.resolve_translated kind hvm hbase huser
  have missed (kind : AccessKind) (h : s.tlbLookup (va.extractLsb' 12 20) = none) :
      s.resolve kind va = .raise (refillEvent kind va) := (resolves kind).trans (State.translate_missed kind h)
  have invalid (kind : AccessKind) {k : Nat} (h : s.tlbLookup (va.extractLsb' 12 20) = some k)
      (hv : bitAt (s.tlbAt k).lo 9 = false) : s.resolve kind va = .raise (tlbInvalid kind va) :=
    (resolves kind).trans (State.translate_invalid kind h hv)
  refine ⟨fun rt rs imm hva => ⟨fun hmiss => ⟨fun i hi hm => ?_, fun i hi hm => ?_⟩,
    fun k hk => ⟨fun hv => ⟨fun i hi hm => ?_, fun i hi hm => ?_⟩, fun hv hd i hi hm => ?_⟩⟩,
    fun r hr hpc haligned => ⟨fun hmiss => ?_, fun k hk hv => ?_⟩⟩
  · rw [exec_load_unresolved hi hva hm (missed .load hmiss)]
    exact raise_refillEvent s .load va
  · rw [exec_store_unresolved hi hva hm (missed .store hmiss)]
    exact raise_refillEvent s .store va
  · rw [exec_load_unresolved hi hva hm (invalid .load hk hv)]
    exact raise_tlbInvalid s .load va
  · rw [exec_store_unresolved hi hva hm (invalid .store hk hv)]
    exact raise_tlbInvalid s .store va
  · rw [exec_store_unresolved hi hva hm ((resolves .store).trans (State.translate_readOnly hk hv hd))]
    exact raise_mod s va
  · subst hpc
    rw [step_fetch_unresolved hr haligned (missed .fetch hmiss)]
    exact raise_refillEvent s .fetch s.pc
  · subst hpc
    rw [step_fetch_unresolved hr haligned (invalid .fetch hk hv)]
    exact raise_tlbInvalid s .fetch s.pc

end Sys2Proof.Machine
end

section
/-! SUPPORT. The decoder map by map (R143 to R147): which map an opcode selects, what each map answers for the words
the encoder makes, and which words it answers an instruction for. -/

namespace Sys2Proof

/-! ### The map an opcode selects (R143) -/

theorem decode_special (tc : BitVec 6) {w : Word} (hop : opOf w = 0x00#6) : decode tc w = decodeSpecial w := by
  rw [decode, hop]; rfl

theorem decode_regimm (tc : BitVec 6) {w : Word} (hop : opOf w = 0x01#6) : decode tc w = decodeRegimm w := by
  rw [decode, hop]; rfl

theorem decode_cop0 (tc : BitVec 6) {w : Word} (hop : opOf w = 0x10#6) : decode tc w = decodeCop0 tc w := by
  rw [decode, hop]; rfl

theorem decode_lwc0_swc0 (tc : BitVec 6) {w : Word} (hop : opOf w ∈ [0x30#6, 0x38#6]) :
    decode tc w = .error .cop0Reserved := by
  simp only [List.mem_cons, List.not_mem_nil, or_false] at hop
  obtain hop | hop := hop <;> rw [decode, hop] <;> rfl

theorem ifUnusedZero_eq_ok {ok : Bool} {i j : Instr} : ifUnusedZero ok i = .ok j ↔ ok = true ∧ i = j := by
  cases ok <;> simp [ifUnusedZero]

/-! ### Coprocessor 0 (R146) -/

theorem getLsbD_25_cop0Word (funct : BitVec 6) : (cop0Word funct).getLsbD 25 = true :=
  getLsbD_25_rWord ..

theorem functOf_cop0Word (funct : BitVec 6) : functOf (cop0Word funct) = funct := functOf_rWord ..

theorem opOf_cop0Word (funct : BitVec 6) : opOf (cop0Word funct) = 0x10#6 := opOf_rWord ..

theorem decode_cop0Word {tc funct : BitVec 6} {i : Instr} (hi : cop0Operation tc funct = some i) :
    decode tc (cop0Word funct) = .ok i := by
  rw [decode_cop0 tc (opOf_cop0Word funct), decodeCop0, if_pos (getLsbD_25_cop0Word funct), functOf_cop0Word, hi]
  exact if_pos (bits_24_6_cop0Word funct)

theorem cop0Operation_tlbclr {tc : BitVec 6} (htc : tlbclrFunctOk tc = true) : cop0Operation tc tc = some .tlbclr := by
  revert tc; decide

/-- An operation's word is made of the `funct` that names it. -/
theorem encode_cop0Operation {tc funct : BitVec 6} {i : Instr} (hi : cop0Operation tc funct = some i) :
    encode tc i = cop0Word funct := by
  unfold cop0Operation at hi
  split at hi
  case h_6 =>
    split at hi
    case isTrue htc => cases hi; rw [htc]; rfl
    case isFalse => cases hi
  all_goals cases hi; rfl

/-- Part of a zero field is zero. -/
theorem subfield_eq_zero {w : Word} {lo n lo' n' : Nat} (hz : w.extractLsb' lo n = 0#n) (hlo : lo ≤ lo')
    (hhi : lo' + n' ≤ lo + n) : w.extractLsb' lo' n' = 0#n' :=
  field_of_bits _ _ _ fun i hi => by
    have hbit := congrArg (·.getLsbD (lo' - lo + i)) hz
    simp only [BitVec.getLsbD_extractLsb', BitVec.getLsbD_zero] at hbit ⊢
    rwa [decide_eq_true (by omega), Bool.true_and, show lo + (lo' - lo + i) = lo' + i by omega] at hbit

theorem rsOf_cop0 {w : Word} (h25 : w.getLsbD 25 = true) (hz : w.extractLsb' 6 19 = 0#19) : rsOf w = 0x10#5 :=
  field_of_bits _ _ _ fun i hi => by
    by_cases h4 : i = 4
    · subst h4; exact h25
    · have hlow : w.extractLsb' 21 4 = 0#4 := subfield_eq_zero hz (by omega) (by omega)
      have hbit := congrArg (·.getLsbD i) hlow
      simpa [show i < 4 by omega, low_of_0x10 i (by omega)] using hbit

theorem cop0Word_fields {w : Word} (hop : opOf w = 0x10#6) (h25 : w.getLsbD 25 = true)
    (hz : w.extractLsb' 6 19 = 0#19) : cop0Word (functOf w) = w := by
  have hrt : rtOf w = 0#5 := subfield_eq_zero hz (by omega) (by omega)
  have hrd : rdOf w = 0#5 := subfield_eq_zero hz (by omega) (by omega)
  have hsh : shamtOf w = 0#5 := subfield_eq_zero hz (by omega) (by omega)
  have hword := rWord_fields w
  rwa [hop, rsOf_cop0 h25 hz, hrt, hrd, hsh] at hword

/-- MFC0 and MTC0: bits 10:0 are zero. -/
theorem moveWord_fields {w : Word} {op : BitVec 6} {rs : RegIdx} (hop : opOf w = op) (hrs : rsOf w = rs)
    (hz : w.extractLsb' 0 11 = 0#11) : rWord op rs (rtOf w) (rdOf w) 0#5 0#6 = w := by
  have hsh : shamtOf w = 0#5 := subfield_eq_zero hz (by omega) (by omega)
  have hfn : functOf w = 0#6 := subfield_eq_zero hz (by omega) (by omega)
  have hword := rWord_fields w
  rwa [hop, hrs, hsh, hfn] at hword

/-! ### Decoding an encoding -/

/-- Decoding undoes encoding, format by format (R141): the opcode selects the map, the map's selector the
instruction, and each operand is the field it was put in. -/
theorem decode_encode {tc : BitVec 6} (htc : tlbclrFunctOk tc = true) (i : Instr) :
    decode tc (encode tc i) = .ok i := by
  cases i
  case add | addu | sub | subu | and | or | xor | nor | slt | sltu | sll | srl | sra | sllv | srlv | srav | mult
      | multu | div | divu | mfhi | mthi | mflo | mtlo | jr | jalr =>
    dsimp only [encode, specialWord]
    rw [decode_special tc (opOf_rWord ..), decodeSpecial, functOf_rWord, rsOf_rWord, rtOf_rWord, rdOf_rWord,
      shamtOf_rWord]
    rfl
  case syscall | brk =>
    dsimp only [encode]
    rw [decode_special tc (opOf_codeWord ..), decodeSpecial, functOf_codeWord, codeOf_codeWord]
    rfl
  case bltz | bgez | bltzal | bgezal =>
    dsimp only [encode]
    rw [decode_regimm tc (opOf_iWord ..), decodeRegimm, rtOf_iWord, rsOf_iWord, immOf_iWord]
    rfl
  case addi | addiu | andi | ori | xori | lui | slti | sltiu | lb | lbu | lh | lhu | lw | sb | sh | lwl | lwr | swl
      | swr | sw | beq | bne | blez | bgtz =>
    dsimp only [encode]
    rw [decode, opOf_iWord, rsOf_iWord, rtOf_iWord, immOf_iWord]
    rfl
  case j | jal | cop1 | cop2 | cop3 | lwc1 | lwc2 | lwc3 | swc1 | swc2 | swc3 =>
    dsimp only [encode]
    rw [decode, opOf_jWord, targetOf_jWord]
    rfl
  case mfc0 | mtc0 =>
    dsimp only [encode]
    rw [decode_cop0 tc (opOf_rWord ..), decodeCop0, getLsbD_25_rWord, rsOf_rWord, low11_rWord, rtOf_rWord, rdOf_rWord]
    rfl
  case tlbclr => exact decode_cop0Word (cop0Operation_tlbclr htc)
  case tlbwi | tlbwr | tlbr | tlbp | rfe => exact decode_cop0Word rfl

/-! ### Encoding what was decoded -/

theorem iWord_of_fields {w : Word} {op : BitVec 6} {rs rt : RegIdx} (hop : opOf w = op) (hrs : rsOf w = rs)
    (hrt : rtOf w = rt) : iWord op rs rt (immOf w) = w := by
  subst hop hrs hrt; exact iWord_fields w

theorem jWord_of_opOf {w : Word} {op : BitVec 6} (hop : opOf w = op) : jWord op (targetOf w) = w := by
  subst hop; exact jWord_fields w

theorem codeWord_of_functOf {w : Word} {funct : BitVec 6} (hop : opOf w = 0x00#6) (hfunct : functOf w = funct) :
    codeWord (codeOf w) funct = w := by
  subst hfunct; exact codeWord_fields w hop

theorem encode_decodeSpecial (tc : BitVec 6) {w : Word} {i : Instr} (hop : opOf w = 0x00#6)
    (hi : decodeSpecial w = .ok i) : encode tc i = w := by
  unfold decodeSpecial at hi
  split at hi
  -- SYSCALL and BREAK, whose code fills the word
  case h_9 hfunct | h_10 hfunct =>
    cases hi
    exact codeWord_of_functOf hop hfunct
  -- no instruction
  case h_29 => cases hi
  -- the R-format instructions, whose unused fields are zero
  all_goals
    next hfunct =>
    obtain ⟨hzero, rfl⟩ := ifUnusedZero_eq_ok.1 hi
    simp only [Bool.and_eq_true, decide_eq_true_eq] at hzero
    have hword := rWord_fields w
    simp only [hop, hfunct, hzero] at hword
    exact hword

theorem encode_decodeRegimm (tc : BitVec 6) {w : Word} {i : Instr} (hop : opOf w = 0x01#6)
    (hi : decodeRegimm w = .ok i) : encode tc i = w := by
  unfold decodeRegimm at hi
  split at hi
  case h_5 => cases hi
  all_goals
    next hrt =>
    cases hi
    exact iWord_of_fields hop rfl hrt

theorem encode_decodeCop0 {tc : BitVec 6} {w : Word} {i : Instr} (hop : opOf w = 0x10#6)
    (hi : decodeCop0 tc w = .ok i) : encode tc i = w := by
  unfold decodeCop0 at hi
  split at hi
  case isTrue h25 =>
    split at hi
    case h_1 j hj =>
      split at hi <;> cases hi
      next hz => exact (encode_cop0Operation hj).trans (cop0Word_fields hop h25 hz)
    case h_2 => cases hi
  case isFalse =>
    split at hi
    case h_3 => cases hi
    all_goals
      next hrs =>
      split at hi <;> cases hi
      next hz => exact moveWord_fields hop hrs hz

/-- Encoding undoes decoding, map by map: the selectors fix their fields, the unused ones are tested to be zero, and
the operands are the word's own. -/
theorem encode_decode {tc : BitVec 6} {w : Word} {i : Instr} (hi : decode tc w = .ok i) : encode tc i = w := by
  unfold decode at hi
  split at hi
  case h_1 hop => exact encode_decodeSpecial tc hop hi
  case h_2 hop => exact encode_decodeRegimm tc hop hi
  case h_17 hop => exact encode_decodeCop0 hop hi
  -- J, JAL, and the words of coprocessors 1 to 3
  case h_3 hop | h_4 hop | h_18 hop | h_19 hop | h_20 hop | h_34 hop | h_35 hop | h_36 hop | h_38 hop | h_39 hop
      | h_40 hop =>
    cases hi
    exact jWord_of_opOf hop
  -- BLEZ and BGTZ, which leave `rt` unused, and LUI, which leaves `rs`
  case h_7 hop | h_8 hop =>
    obtain ⟨hrt, rfl⟩ := ifUnusedZero_eq_ok.1 hi
    exact iWord_of_fields hop rfl (of_decide_eq_true hrt)
  case h_16 hop =>
    obtain ⟨hrs, rfl⟩ := ifUnusedZero_eq_ok.1 hi
    exact iWord_of_fields hop (of_decide_eq_true hrs) rfl
  -- LWC0, SWC0 and the opcodes of no instruction
  case h_33 | h_37 | h_41 => cases hi
  -- the other I-format instructions
  all_goals
    next hop =>
    cases hi
    exact iWord_of_fields hop rfl rfl

/-! ### The words no instruction matches (R149) -/

/-- The primary opcodes of no instruction and no map (R143). -/
def unassignedOps : List (BitVec 6) :=
  [0x14#6, 0x15#6, 0x16#6, 0x17#6, 0x18#6, 0x19#6, 0x1A#6, 0x1B#6, 0x1C#6, 0x1D#6, 0x1E#6, 0x1F#6,
    0x27#6, 0x2C#6, 0x2D#6, 0x2F#6, 0x34#6, 0x35#6, 0x36#6, 0x37#6, 0x3C#6, 0x3D#6, 0x3E#6, 0x3F#6]

/-- The SPECIAL functs of no instruction below 0x2C (R144). -/
def unassignedFuncts : List (BitVec 6) :=
  [0x01#6, 0x05#6, 0x0A#6, 0x0B#6, 0x0E#6, 0x0F#6, 0x14#6, 0x15#6, 0x16#6,
    0x17#6, 0x1C#6, 0x1D#6, 0x1E#6, 0x1F#6, 0x28#6, 0x29#6]

theorem decode_unassignedOp (tc : BitVec 6) {w : Word} (hop : opOf w ∈ unassignedOps) :
    decode tc w = .error .reserved := by
  unfold decode
  split
  case h_41 => rfl
  all_goals
    next h =>
    rw [h] at hop
    exact absurd hop (by decide)

theorem decodeSpecial_unassigned {w : Word} (hfunct : functOf w ∈ unassignedFuncts ∨ 0x2C#6 ≤ functOf w) :
    decodeSpecial w = .error .reserved := by
  unfold decodeSpecial
  split
  case h_29 => rfl
  all_goals
    next h =>
    rw [h] at hfunct
    exact absurd hfunct (by decide)

theorem decodeRegimm_unassigned {w : Word} (hrt : rtOf w ∉ [0x00#5, 0x01#5, 0x10#5, 0x11#5]) :
    decodeRegimm w = .error .reserved := by
  unfold decodeRegimm
  split
  case h_5 => rfl
  all_goals
    next h =>
    rw [h] at hrt
    exact absurd (by decide) hrt

theorem decodeCop0_unassigned_rs (tc : BitVec 6) {w : Word} (h25 : w.getLsbD 25 = false)
    (hrs : rsOf w ∉ [0x00#5, 0x04#5]) : decodeCop0 tc w = .error .cop0Reserved := by
  rw [decodeCop0, if_neg (ne_true_of_eq_false h25)]
  split
  case h_3 => rfl
  all_goals
    next h =>
    rw [h] at hrs
    exact absurd (by decide) hrs

theorem cop0Operation_eq_none {tc funct : BitVec 6}
    (h : funct ∉ [0x01#6, 0x02#6, 0x06#6, 0x08#6, 0x10#6, tc]) : cop0Operation tc funct = none := by
  simp only [List.mem_cons, List.not_mem_nil, or_false, not_or] at h
  obtain ⟨htlbr, htlbwi, htlbwr, htlbp, hrfe, htlbclr⟩ := h
  unfold cop0Operation
  split
  case h_6 => exact if_neg htlbclr
  all_goals contradiction

theorem decodeCop0_unassigned_funct {tc : BitVec 6} {w : Word} (h25 : w.getLsbD 25 = true)
    (hfunct : functOf w ∉ [0x01#6, 0x02#6, 0x06#6, 0x08#6, 0x10#6, tc]) :
    decodeCop0 tc w = .error .cop0Reserved := by
  rw [decodeCop0, if_pos h25, cop0Operation_eq_none hfunct]

end Sys2Proof

namespace Sys2Proof.Machine

/-! ### The step on a word that decodes to no instruction -/

theorem Fetches.cycle_eq {s u : State} {w : Word} (h : Fetches s u w) : s.cycle = decodeStep u w := by
  obtain ⟨hagents, hwf, hended, hint, hcontract, hword⟩ := h
  rw [ReadyToFetch.cycle_eq ⟨hagents, hwf, hended, hint⟩, fetchStep, if_neg (by simp [hcontract]), hword]

theorem step_reserved {s u : State} {w : Word} (h : Fetches s u w)
    (hdecode : decode u.params.tlbclrFunct w = .error .reserved) : step s = raise .ri u := by
  rw [step, h.cycle_eq, decodeStep, hdecode]

theorem step_cop0Reserved {s u : State} {w : Word} (h : Fetches s u w)
    (hdecode : decode u.params.tlbclrFunct w = .error .cop0Reserved) : step s = ifCop0Usable u (raise .ri u) := by
  rw [step, h.cycle_eq, decodeStep, hdecode]

theorem raise_ri (s : State) : ∃ t, raise .ri s = .next t ∧ EntersPlain s t 10#5 :=
  raise_plain s .ri rfl rfl rfl

/-- A Coprocessor Unusable entry names the coprocessor in CE (R48). -/
theorem raise_cpu (s : State) (z : BitVec 2) :
    ∃ t, raise (.cpu z) s = .next t ∧ EntersPlain s t 11#5 ∧ t.cause.extractLsb' 28 2 = z := by
  obtain ⟨t, ht, henters⟩ := raise_plain s (.cpu z) rfl rfl rfl
  refine ⟨t, ht, henters, ?_⟩
  cases ht
  exact causeAfter_ce s.cause s.inslot z

end Sys2Proof.Machine
end

section
/-! SUPPORT. The statements of 30_encoding.md. -/

namespace Sys2Proof.Machine

/-- Settles O1: see `decode_encode`. -/
theorem decodeOfEncode : Obligations.DecodeOfEncode :=
  fun _ i htc => decode_encode htc i

/-- Settles O2: see `encode_decode`. -/
theorem encodeOfDecode : Obligations.EncodeOfDecode :=
  fun _ _ _ hi => encode_decode hi

/-- Settles O5: the decoder rejects every word of the lists as no instruction's, and the step answers each rejection
with its exception, after the usability test for those of coprocessor 0. -/
theorem unassignedOpcodesTrap : Obligations.UnassignedOpcodesTrap := by
  unfold Obligations.UnassignedOpcodesTrap
  intro s u w hfetch
  refine ⟨fun hw => ?_, fun hw => ?_⟩
  · have hreserved : decode u.params.tlbclrFunct w = .error .reserved := by
      obtain hop | ⟨hop, hfunct⟩ | ⟨hop, hrt⟩ := hw
      · exact decode_unassignedOp _ hop
      · exact (decode_special _ hop).trans (decodeSpecial_unassigned hfunct)
      · exact (decode_regimm _ hop).trans (decodeRegimm_unassigned hrt)
    rw [step_reserved hfetch hreserved]
    exact raise_ri u
  · have hreserved : decode u.params.tlbclrFunct w = .error .cop0Reserved := by
      obtain hop | ⟨hop, h25, hrs⟩ | ⟨hop, h25, hfunct⟩ := hw
      · exact decode_lwc0_swc0 _ hop
      · exact (decode_cop0 _ hop).trans (decodeCop0_unassigned_rs _ h25 hrs)
      · exact (decode_cop0 _ hop).trans (decodeCop0_unassigned_funct h25 hfunct)
    rw [step_cop0Reserved hfetch hreserved]
    refine ⟨fun husable => ?_, fun hunusable => ?_⟩
    · rw [ifCop0Usable_pos u _ husable]
      exact raise_ri u
    · rw [ifCop0Usable_neg u _ hunusable]
      exact raise_cpu u 0#2

end Sys2Proof.Machine
end

section
/-! SUPPORT. The words of 40_alu.md's instructions decode whatever `TLBCLR_FUNCT` is, which only coprocessor 0 reads
(R146). -/

namespace Sys2Proof

theorem decode_of_encode_eq {tc : BitVec 6} {w : Word} {i : Instr} (htc : tlbclrFunctOk tc = true)
    (hw : encode tc i = w) : decode tc w = .ok i :=
  hw ▸ decode_encode htc i

/-- Outside coprocessor 0 `TLBCLR_FUNCT` plays no part. -/
theorem decode_tlbclrFunct_irrelevant (tc tc' : BitVec 6) {w : Word} (hop : opOf w ≠ 0x10#6) :
    decode tc w = decode tc' w := by
  unfold decode
  split
  case h_17 hcop0 => exact absurd hcop0 hop
  all_goals rfl

theorem decode_of_encode_eq_of_not_cop0 (tc : BitVec 6) {w : Word} {i : Instr} (hop : opOf w ≠ 0x10#6)
    (hw : encode 0#6 i = w) : decode tc w = .ok i :=
  (decode_tlbclrFunct_irrelevant tc 0#6 hop).trans (decode_of_encode_eq rfl hw)

theorem decode_specialWord (tc : BitVec 6) {rs rt rd : RegIdx} {sh : BitVec 5} {funct : BitVec 6} {i : Instr}
    (hw : encode 0#6 i = specialWord rs rt rd sh funct) : decode tc (specialWord rs rt rd sh funct) = .ok i :=
  decode_of_encode_eq_of_not_cop0 tc (by rw [specialWord, opOf_rWord]; decide) hw

theorem decode_iWord (tc : BitVec 6) {op : BitVec 6} {rs rt : RegIdx} {imm : BitVec 16} {i : Instr}
    (hop : op ≠ 0x10#6) (hw : encode 0#6 i = iWord op rs rt imm) : decode tc (iWord op rs rt imm) = .ok i :=
  decode_of_encode_eq_of_not_cop0 tc (by rwa [opOf_iWord]) hw

end Sys2Proof
end

section
/-! SUPPORT. The word operations of 40_alu.md as exact arithmetic on `Int` and `Nat`. -/

namespace Sys2Proof.Machine

/-! ### Sums and differences (R172) -/

theorem word_add_eq_ofInt (a b : Word) : a + b = BitVec.ofInt 32 (a.toInt + b.toInt) := by
  rw [BitVec.ofInt_add, BitVec.ofInt_toInt, BitVec.ofInt_toInt]

theorem word_sub_eq_ofInt (a b : Word) : a - b = BitVec.ofInt 32 (a.toInt - b.toInt) := by
  rw [Int.sub_eq_add_neg, BitVec.ofInt_add, BitVec.ofInt_neg, BitVec.ofInt_toInt, BitVec.ofInt_toInt,
    BitVec.sub_eq_add_neg]

/-! ### Immediates and amounts (R142) -/

theorem toInt_sext16 (imm : BitVec 16) : (sext16 imm).toInt = imm.toInt :=
  BitVec.toInt_signExtend_of_le (by omega)

theorem zext16_eq_ofNat (imm : BitVec 16) : zext16 imm = BitVec.ofNat 32 imm.toNat :=
  (BitVec.ofNat_toNat 32 imm).symm

theorem lowFive_eq_mod (w : Word) : lowFive w = w.toNat % 32 := by
  rw [lowFive, BitVec.extractLsb'_toNat, Nat.shiftRight_zero]

/-- LUI's word: the immediate in the upper half (R188). -/
theorem append_zero16_eq_ofNat (imm : BitVec 16) : imm ++ 0#16 = BitVec.ofNat 32 (imm.toNat * 65536) := by
  apply BitVec.eq_of_toNat_eq
  have hlt := imm.isLt
  rw [BitVec.toNat_append, BitVec.toNat_ofNat, BitVec.toNat_ofNat, Nat.zero_mod, Nat.or_zero, Nat.shiftLeft_eq]
  omega

/-! ### Comparisons (R171) -/

theorem boolWord_decide (p : Prop) [Decidable p] : boolWord (decide p) = if p then 1#32 else 0#32 := by
  simp only [boolWord, decide_eq_true_eq]

/-! ### Shifts (R193 to R195) -/

theorem shiftLeft_eq_ofNat (a : Word) (n : Nat) : a <<< n = BitVec.ofNat 32 (a.toNat * 2 ^ n) := by
  apply BitVec.eq_of_toNat_eq
  rw [BitVec.toNat_shiftLeft, BitVec.toNat_ofNat, Nat.shiftLeft_eq]

theorem ushiftRight_eq_ofNat (a : Word) (n : Nat) : a >>> n = BitVec.ofNat 32 (a.toNat / 2 ^ n) := by
  rw [← Nat.shiftRight_eq_div_pow, ← BitVec.toNat_ushiftRight, BitVec.ofNat_toNat, BitVec.setWidth_eq]

theorem sshiftRight_eq_ofInt (a : Word) (n : Nat) : a.sshiftRight n = BitVec.ofInt 32 (a.toInt / 2 ^ n) := by
  rw [BitVec.sshiftRight_eq, Int.shiftRight_eq_div_pow, Int.natCast_pow, Int.cast_ofNat_Int]

/-! ### The ends of the instructions -/

/-- `finish_spec` with the value in the form a statement gives it. -/
theorem finish_writesOnly (s : State) (rd : RegIdx) {v w : Word} (hv : v = w) :
    ∃ t, finish s rd v = .next t ∧ WritesOnly s t rd w :=
  hv ▸ finish_spec s rd v

theorem outsideSigned_iff (r : Int) : outsideSigned r = true ↔ r < -2147483648 ∨ 2147483647 < r := by
  rw [outsideSigned, Bool.or_eq_true, decide_eq_true_eq, decide_eq_true_eq]
  omega

/-- ADD, SUB or ADDI with the exact result `r`: the test and the value are both of `r` (R172). -/
def finishExact (s : State) (rd : RegIdx) (r : Int) : Result :=
  finishOrOverflow s (outsideSigned r) rd (BitVec.ofInt 32 r)

theorem finishExact_fits (s : State) (rd : RegIdx) {r : Int} (hlow : -2147483648 ≤ r) (hhigh : r ≤ 2147483647) :
    ∃ t, finishExact s rd r = .next t ∧ WritesOnly s t rd (BitVec.ofInt 32 r) := by
  have hfits : ¬ outsideSigned r = true := by rw [outsideSigned_iff]; omega
  rw [finishExact, finishOrOverflow, if_neg hfits]
  exact finish_spec s rd _

theorem finishExact_overflows (s : State) (rd : RegIdx) {r : Int} (hr : r < -2147483648 ∨ 2147483647 < r) :
    ∃ t, finishExact s rd r = .next t ∧ EntersPlain s t 12#5 := by
  rw [finishExact, finishOrOverflow, if_pos ((outsideSigned_iff r).2 hr)]
  exact raise_plain s .ov rfl rfl rfl

section
variable (s : State) (rd rs rt : RegIdx) (imm : BitVec 16)

theorem exec_add : exec (.add rd rs rt) s = finishExact s rd ((s.rs rs).toInt + (s.rt rt).toInt) := by
  rw [finishExact, ← word_add_eq_ofInt]; rfl

theorem exec_sub : exec (.sub rd rs rt) s = finishExact s rd ((s.rs rs).toInt - (s.rt rt).toInt) := by
  rw [finishExact, ← word_sub_eq_ofInt]; rfl

theorem exec_addi : exec (.addi rt rs imm) s = finishExact s rt ((s.rs rs).toInt + imm.toInt) := by
  rw [finishExact, ← toInt_sext16, ← word_add_eq_ofInt]; rfl

end

end Sys2Proof.Machine
end

section
/-! SUPPORT. The statements of 40_alu.md, and the printed words of the spec. -/

namespace Sys2Proof.Machine

/-- Settles O3: each printed word is the encoder's word of its instruction. -/
theorem printedWordsDecode : Obligations.PrintedWordsDecode := by
  unfold Obligations.PrintedWordsDecode
  refine ⟨?_, ?_, ?_, ?_, ?_, ?_, ?_, ?_, ?_, ?_, ?_⟩ <;> exact decode_of_encode_eq rfl (by decide)

/-- Settles O7: the instructions add and subtract words, which is the exact result modulo 2^32. -/
theorem wrappingArithmetic : Obligations.WrappingArithmetic := by
  unfold Obligations.WrappingArithmetic
  intro s rd rs rt imm
  have haddiu : s.rs rs + sext16 imm = BitVec.ofInt 32 ((s.rs rs).toInt + imm.toInt) := by
    rw [word_add_eq_ofInt, toInt_sext16]
  exact ⟨finish_writesOnly s rd (BitVec.add_def _ _), finish_writesOnly s rd (word_sub_eq_ofInt _ _),
    finish_writesOnly s rt haddiu,
    fun tc => ⟨decode_specialWord tc rfl, decode_specialWord tc rfl, decode_iWord tc (by decide) rfl⟩⟩

/-- Settles O8: see `finishExact_fits`. -/
theorem trappingArithmeticCompletes : Obligations.TrappingArithmeticCompletes := by
  unfold Obligations.TrappingArithmeticCompletes
  intro s rd rs rt imm
  rw [exec_add, exec_sub, exec_addi]
  refine ⟨?_, ?_, ?_⟩ <;> rintro r rfl hlow hhigh <;> exact finishExact_fits s _ hlow hhigh

/-- Settles O9: see `finishExact_overflows`. -/
theorem overflowTraps : Obligations.OverflowTraps := by
  unfold Obligations.OverflowTraps
  intro s rd rs rt imm
  rw [exec_add, exec_sub, exec_addi]
  refine ⟨?_, ?_, ?_⟩ <;> rintro r rfl hr <;> exact finishExact_overflows s _ hr

/-- Settles O10: the register forms write the operation itself; the immediates are rewritten as numbers. -/
theorem logicalResults : Obligations.LogicalResults := by
  unfold Obligations.LogicalResults
  intro s rd rs rt imm
  rw [← zext16_eq_ofNat]
  exact ⟨finish_spec s rd _, finish_spec s rd _, finish_spec s rd _, finish_spec s rd _,
    finish_spec s rt _, finish_spec s rt _, finish_spec s rt _, finish_writesOnly s rt (append_zero16_eq_ofNat imm),
    fun tc => ⟨decode_specialWord tc rfl, decode_specialWord tc rfl, decode_specialWord tc rfl,
      decode_specialWord tc rfl, decode_iWord tc (by decide) rfl, decode_iWord tc (by decide) rfl,
      decode_iWord tc (by decide) rfl, decode_iWord tc (by decide) rfl⟩⟩

/-- Settles O11: the tests compare the operands' exact values, and a sign-extended immediate keeps its own. -/
theorem setResults : Obligations.SetResults := by
  unfold Obligations.SetResults
  intro s rd rs rt imm
  rw [← toInt_sext16]
  exact ⟨finish_writesOnly s rd (boolWord_decide _), finish_writesOnly s rd (boolWord_decide _),
    finish_writesOnly s rt (boolWord_decide _), finish_writesOnly s rt (boolWord_decide _),
    fun tc => ⟨decode_specialWord tc rfl, decode_specialWord tc rfl, decode_iWord tc (by decide) rfl,
      decode_iWord tc (by decide) rfl⟩⟩

/-- Settles O12: each shift is a multiplication or division, by an amount that is the low five bits of x[rs] in the
variable ones. -/
theorem shiftResults : Obligations.ShiftResults := by
  unfold Obligations.ShiftResults
  intro s rd rs rt sh
  rw [← lowFive_eq_mod]
  exact ⟨finish_writesOnly s rd (shiftLeft_eq_ofNat _ _), finish_writesOnly s rd (ushiftRight_eq_ofNat _ _),
    finish_writesOnly s rd (sshiftRight_eq_ofInt _ _), finish_writesOnly s rd (shiftLeft_eq_ofNat _ _),
    finish_writesOnly s rd (ushiftRight_eq_ofNat _ _), finish_writesOnly s rd (sshiftRight_eq_ofInt _ _),
    fun tc => ⟨decode_specialWord tc rfl, decode_specialWord tc rfl, decode_specialWord tc rfl,
      decode_specialWord tc rfl, decode_specialWord tc rfl, decode_specialWord tc rfl⟩⟩

end Sys2Proof.Machine
end

section
/-! SUPPORT. HI and LO after each of 41_muldiv.md's operations: a product is their concatenation, a division leaves the
library's quotient and remainder of words. -/

namespace Sys2Proof.Machine

/-! ### Products (R212, R213) -/

theorem toInt_signedProduct (a b : Word) : (signedProduct a b).toInt = a.toInt * b.toInt := by
  have hlow := BitVec.le_toInt_mul_toInt (x := a) (y := b)
  have hhigh := BitVec.toInt_mul_toInt_le (x := a) (y := b)
  exact BitVec.toInt_ofInt_eq_self (by omega) (by omega) (by omega)

theorem toNat_unsignedProduct (a b : Word) : (unsignedProduct a b).toNat = a.toNat * b.toNat :=
  Nat.mod_eq_of_lt BitVec.toNat_mul_toNat_lt

theorem toNat_hi_append_lo (hi lo : Word) : (hi ++ lo).toNat = hi.toNat * 2 ^ 32 + lo.toNat := by
  rw [BitVec.toNat_append, ← Nat.shiftLeft_add_eq_or_of_lt lo.isLt, Nat.shiftLeft_eq]

theorem append_halves (p : BitVec 64) : p.extractLsb' 32 32 ++ p.extractLsb' 0 32 = p :=
  (BitVec.extractLsb'_append_extractLsb'_eq_extractLsb' (Nat.zero_add 32).symm).trans BitVec.extractLsb'_eq_self

/-! ### Quotients and remainders (R214, R215) -/

theorem signedQuotient_eq_sdiv (a b : Word) : signedQuotient a b = a.sdiv b := by
  apply BitVec.eq_of_toInt_eq
  rw [signedQuotient, BitVec.toInt_ofInt, BitVec.toInt_sdiv]

theorem signedRemainder_eq_srem (a b : Word) : signedRemainder a b = a.srem b := by
  rw [signedRemainder, ← BitVec.toInt_srem, BitVec.ofInt_toInt]

/-- The remainder is what the truncated quotient leaves of the dividend: a quotient that wraps (the most negative word
by -1) is the one case apart. -/
theorem toInt_srem_eq_sub {a b : Word} (h : (a.sdiv b).toInt = a.toInt.tdiv b.toInt) :
    (a.srem b).toInt = a.toInt - (a.sdiv b).toInt * b.toInt := by
  rw [BitVec.toInt_srem, Int.tmod_def, h, Int.mul_comm]

theorem divOpen_iff (a b : Word) :
    divOpen a b = true ↔ b = 0#32 ∨ (a = 0x80000000#32 ∧ b = 0xFFFFFFFF#32) := by
  rw [divOpen, Bool.or_eq_true, Bool.and_eq_true, decide_eq_true_eq, decide_eq_true_eq, decide_eq_true_eq]

/-! ### The ends of the instructions -/

/-- `finishHiLo_spec` with its frame under the statements' name. -/
theorem finishHiLo_hiLoOnly (s : State) (hi lo : Word) :
    ∃ t, finishHiLo s hi lo = .next t ∧ t.hi = hi ∧ t.lo = lo ∧ HiLoOnly s t :=
  finishHiLo_spec s hi lo

theorem finishProduct_spec (s : State) (p : BitVec 64) :
    ∃ t, finishProduct s p = .next t ∧ t.hi ++ t.lo = p ∧ HiLoOnly s t := by
  obtain ⟨t, ht, hhi, hlo, honly⟩ := finishHiLo_hiLoOnly s (p.extractLsb' 32 32) (p.extractLsb' 0 32)
  exact ⟨t, ht, by rw [hhi, hlo, append_halves], honly⟩

theorem finishOpen_spec (s : State) : ∃ t, finishOpen s = .next t ∧ HiLoOnly s t := by
  obtain ⟨t, ht, -, -, honly⟩ := finishHiLo_hiLoOnly s _ _
  exact ⟨t, ht, honly⟩

section
variable {s : State} {rs rt : RegIdx}

theorem execDiv_spec (h : ¬ divOpen (s.rs rs) (s.rt rt) = true) :
    ∃ t, execDiv rs rt s = .next t ∧ t.hi = (s.rs rs).srem (s.rt rt) ∧ t.lo = (s.rs rs).sdiv (s.rt rt)
      ∧ HiLoOnly s t := by
  rw [execDiv, if_neg h, signedRemainder_eq_srem, signedQuotient_eq_sdiv]
  exact finishHiLo_hiLoOnly s _ _

theorem execDivu_spec (h : s.rt rt ≠ 0#32) :
    ∃ t, execDivu rs rt s = .next t ∧ t.hi = s.rs rs % s.rt rt ∧ t.lo = s.rs rs / s.rt rt ∧ HiLoOnly s t := by
  rw [execDivu, if_neg h, ← BitVec.umod_def, ← BitVec.udiv_def]
  exact finishHiLo_hiLoOnly s _ _

theorem execDiv_open (h : divOpen (s.rs rs) (s.rt rt) = true) : ∃ t, execDiv rs rt s = .next t ∧ HiLoOnly s t := by
  rw [execDiv, if_pos h]
  exact finishOpen_spec s

theorem execDivu_open (h : s.rt rt = 0#32) : ∃ t, execDivu rs rt s = .next t ∧ HiLoOnly s t := by
  rw [execDivu, if_pos h]
  exact finishOpen_spec s

end

end Sys2Proof.Machine
end

section
/-! SUPPORT. The statements of 41_muldiv.md. -/

namespace Sys2Proof.Machine

/-- Settles O13: HI and LO together are the product, which 64 bits hold exactly. -/
theorem productsAreExact : Obligations.ProductsAreExact := by
  unfold Obligations.ProductsAreExact
  intro s rs rt
  refine ⟨?_, ?_, fun tc => ⟨decode_specialWord tc rfl, decode_specialWord tc rfl⟩⟩
  · obtain ⟨t, ht, hp, honly⟩ := finishProduct_spec s (signedProduct (s.rs rs) (s.rt rt))
    exact ⟨t, ht, by rw [hp, toInt_signedProduct], honly⟩
  · obtain ⟨t, ht, hp, honly⟩ := finishProduct_spec s (unsignedProduct (s.rs rs) (s.rt rt))
    exact ⟨t, ht, by rw [← toNat_hi_append_lo, hp, toNat_unsignedProduct], honly⟩

/-- Settles O14: away from the corners the signed quotient does not wrap, and the remainder follows from it. -/
theorem quotientAndRemainder : Obligations.QuotientAndRemainder := by
  unfold Obligations.QuotientAndRemainder
  intro s rs rt hzero
  refine ⟨fun hwrap => ?_, ?_⟩
  · have hquot : ((s.rs rs).sdiv (s.rt rt)).toInt = (s.rs rs).toInt.tdiv (s.rt rt).toInt :=
      BitVec.toInt_sdiv_of_ne_or_ne _ _ (not_and_or.1 hwrap)
    obtain ⟨t, ht, hhi, hlo, honly⟩ := execDiv_spec (mt (divOpen_iff _ _).1 (not_or.2 ⟨hzero, hwrap⟩))
    exact ⟨t, ht, by rw [hlo, hquot], by rw [hhi, hlo, toInt_srem_eq_sub hquot], honly⟩
  · obtain ⟨t, ht, hhi, hlo, honly⟩ := execDivu_spec hzero
    exact ⟨t, ht, by rw [hlo, BitVec.toNat_udiv], by rw [hhi, BitVec.toNat_umod], honly⟩

/-- Settles O15: the corners are the operands of `divOpen`, whose two open values go to HI and LO alone. -/
theorem divisionCornersComplete : Obligations.DivisionCornersComplete := by
  unfold Obligations.DivisionCornersComplete
  intro s rs rt
  exact ⟨fun hcorner => execDiv_open ((divOpen_iff _ _).2 hcorner), execDivu_open⟩

/-- Settles O16: MFHI and MFLO write a register at once, MTHI and MTLO one of the pair. -/
theorem hiLoMoves : Obligations.HiLoMoves := by
  unfold Obligations.HiLoMoves
  intro s r
  refine ⟨finish_spec s r s.hi, finish_spec s r s.lo, finishHiLo_hiLoOnly s (s.rs r) s.lo, ?_,
    fun tc => ⟨decode_specialWord tc rfl, decode_specialWord tc rfl, decode_specialWord tc rfl,
      decode_specialWord tc rfl⟩⟩
  obtain ⟨t, ht, hhi, hlo, honly⟩ := finishHiLo_hiLoOnly s s.hi (s.rs r)
  exact ⟨t, ht, hlo, hhi, honly⟩

end Sys2Proof.Machine
end

section
/-! SUPPORT. Bytes of words: what the merges of the unaligned accesses make of them (R236 to R239), and the bytes a word
of memory is made of. -/

namespace Sys2Proof.Machine

/-! ### Shifted words merged into others -/

theorem getLsbD_lowMask {n i : Nat} (hi : i < 32) : (lowMask n).getLsbD i = decide (i < n) := by
  rw [lowMask, BitVec.getLsbD_ofNat, Nat.testBit_two_pow_sub_one]
  simp [hi]

/-- The low bytes of a word go above the `n` low bytes kept. -/
theorem byte_shiftUp (w old : Word) {n j : Nat} (hj : j < 4) :
    ((w <<< (8 * n)) ||| (old &&& lowMask (8 * n))).extractLsb' (8 * j) 8 =
      if n ≤ j then w.extractLsb' (8 * (j - n)) 8 else old.extractLsb' (8 * j) 8 := by
  apply BitVec.eq_of_getLsbD_eq
  intro i hi
  have hbit : 8 * j + i < 32 := by omega
  rw [BitVec.getLsbD_extractLsb', BitVec.getLsbD_or, BitVec.getLsbD_shiftLeft, BitVec.getLsbD_and,
    getLsbD_lowMask hbit]
  by_cases h : n ≤ j
  · simp [h, hi, hbit, show ¬ 8 * j + i < 8 * n by omega, show 8 * j + i - 8 * n = 8 * (j - n) + i by omega]
  · simp [h, hi, show 8 * j + i < 8 * n by omega]

/-- The high bytes of a word go below the `n` high bytes kept. -/
theorem byte_shiftDown (w old : Word) {n j : Nat} (hn : n < 4) (hj : j < 4) :
    ((w >>> (8 * n)) ||| (old &&& ~~~lowMask (8 * (4 - n)))).extractLsb' (8 * j) 8 =
      if j + n < 4 then w.extractLsb' (8 * (j + n)) 8 else old.extractLsb' (8 * j) 8 := by
  apply BitVec.eq_of_getLsbD_eq
  intro i hi
  have hbit : 8 * j + i < 32 := by omega
  rw [BitVec.getLsbD_extractLsb', BitVec.getLsbD_or, BitVec.getLsbD_ushiftRight, BitVec.getLsbD_and,
    BitVec.getLsbD_not, getLsbD_lowMask hbit]
  by_cases h : j + n < 4
  · simp [h, hi, show 8 * j + i < 8 * (4 - n) by omega, show 8 * n + (8 * j + i) = 8 * (j + n) + i by omega]
  · have hzero : w.getLsbD (8 * n + (8 * j + i)) = false := BitVec.getLsbD_of_ge _ _ (by omega)
    simp [h, hi, hbit, hzero, show 8 * (4 - n) ≤ 8 * j + i by omega]

section
variable (w v : Word) {k j : Nat} (hk : k < 4) (hj : j < 4)
include hj

/-- SWR's merge, byte by byte (R239). -/
theorem byte_mergeSwr : (mergeSwr k w v).extractLsb' (8 * j) 8 =
    if k ≤ j then v.extractLsb' (8 * (j - k)) 8 else w.extractLsb' (8 * j) 8 := by
  rw [mergeSwr, byte_shiftUp v w hj]

include hk

/-- LWL's merge, byte by byte (R236). -/
theorem byte_mergeLwl : (mergeLwl k w v).extractLsb' (8 * j) 8 =
    if 3 - k ≤ j then w.extractLsb' (8 * (j - (3 - k))) 8 else v.extractLsb' (8 * j) 8 := by
  rw [mergeLwl, show 24 - 8 * k = 8 * (3 - k) by omega, byte_shiftUp w v hj]

/-- LWR's merge, byte by byte (R237). -/
theorem byte_mergeLwr : (mergeLwr k w v).extractLsb' (8 * j) 8 =
    if j ≤ 3 - k then w.extractLsb' (8 * (j + k)) 8 else v.extractLsb' (8 * j) 8 := by
  rw [mergeLwr, show 32 - 8 * k = 8 * (4 - k) by omega, byte_shiftDown w v hk hj]
  simp only [show j + k < 4 ↔ j ≤ 3 - k by omega]

/-- SWL's merge, byte by byte (R238). -/
theorem byte_mergeSwl : (mergeSwl k w v).extractLsb' (8 * j) 8 =
    if j ≤ k then v.extractLsb' (8 * (j + (3 - k))) 8 else w.extractLsb' (8 * j) 8 := by
  rw [mergeSwl, show 24 - 8 * k = 8 * (3 - k) by omega, show 8 * k + 8 = 8 * (4 - (3 - k)) by omega,
    byte_shiftDown v w (by omega) hj]
  simp only [show j + (3 - k) < 4 ↔ j ≤ k by omega]

end

/-! ### Bytes in memory -/

/-- The significance position of the byte at offset `i` of a word (R87, R241). -/
def significance (be : Bool) (i : Nat) : Nat := if be then 3 - i else i

theorem significance_lt {be : Bool} {i : Nat} (hi : i < 4) : significance be i < 4 := by
  unfold significance; split <;> omega

theorem byteOfWord_eq (be : Bool) (w : Word) {i : Nat} (hi : i < 4) :
    byteOfWord be w i = w.extractLsb' (8 * significance be i) 8 := by
  cases be
  · rfl
  · simp [byteOfWord, significance, show 8 * (3 - i) = 24 - 8 * i by omega]

/-- The four bytes of a concatenation, from the lowest up. -/
theorem bytes_of_append (b3 b2 b1 b0 : Byte) :
    (b3 ++ b2 ++ b1 ++ b0).extractLsb' 0 8 = b0 ∧ (b3 ++ b2 ++ b1 ++ b0).extractLsb' 8 8 = b1
      ∧ (b3 ++ b2 ++ b1 ++ b0).extractLsb' 16 8 = b2 ∧ (b3 ++ b2 ++ b1 ++ b0).extractLsb' 24 8 = b3 := by
  refine ⟨?_, ?_, ?_, ?_⟩
  · rw [BitVec.extractLsb'_append_eq_of_add_le (by omega), BitVec.extractLsb'_eq_self]
  · rw [BitVec.extractLsb'_append_eq_of_le (by omega), BitVec.extractLsb'_append_eq_of_add_le (by omega),
      BitVec.extractLsb'_eq_self]
  · rw [BitVec.extractLsb'_append_eq_of_le (by omega), BitVec.extractLsb'_append_eq_of_le (by omega),
      BitVec.extractLsb'_append_eq_of_add_le (by omega), BitVec.extractLsb'_eq_self]
  · rw [BitVec.extractLsb'_append_eq_of_le (by omega), BitVec.extractLsb'_append_eq_of_le (by omega),
      BitVec.extractLsb'_append_eq_of_le (by omega), BitVec.extractLsb'_eq_self]

/-- The byte of a word of memory at a significance position is the one stored at its offset (R87). -/
theorem Memory.byte_readWord (be : Bool) (m : Memory) (a : Nat) {i : Nat} (hi : i < 4) :
    (m.readWord be a).extractLsb' (8 * significance be i) 8 = m.read (a + i) := by
  cases be
  · obtain ⟨h0, h1, h2, h3⟩ := bytes_of_append (m.read (a + 3)) (m.read (a + 2)) (m.read (a + 1)) (m.read a)
    interval_cases i
    exacts [h0, h1, h2, h3]
  · obtain ⟨h3, h2, h1, h0⟩ := bytes_of_append (m.read a) (m.read (a + 1)) (m.read (a + 2)) (m.read (a + 3))
    interval_cases i
    exacts [h0, h1, h2, h3]

theorem bytePosition_eq (be : Bool) (va : Word) : bytePosition be va = significance be (va.toNat % 4) := by
  simp [bytePosition, significance, BitVec.extractLsb'_toNat]

end Sys2Proof.Machine
end

section
/-! SUPPORT. Loads and stores that reach storage: the accesses that nothing stops, and what they read and write. -/

namespace Sys2Proof.Machine

/-- The areas of bytes a load reads: RAM and the two ROMs (R81, R90). -/
def storageRegions : List Region := [.ram, .execRom, .bootRom]

section
variable {s : State} {w : Width} {va pa : Word}

theorem State.memRead_aligned {kind : AccessKind} (hm : misaligned w va = false) (hpa : s.resolve kind va = .ok pa) :
    s.memRead kind w va = s.physRead kind w pa := by
  rw [State.memRead, if_neg (by simp [hm]), hpa]

theorem State.memWrite_aligned (hm : misaligned w va = false) (hpa : s.resolve .store va = .ok pa) (v : Word) :
    s.memWrite w va v = s.physWrite w pa v := by
  rw [State.memWrite, if_neg (by simp [hm]), hpa]

theorem State.physRead_storage (kind : AccessKind) (h : regionOf s.params pa w.bytes ∈ storageRegions) :
    s.physRead kind w pa = .ok (s.mem.fetch s.params.bigEndian w pa.toNat) := by
  simp only [storageRegions, List.mem_cons, List.not_mem_nil, or_false] at h
  obtain h | h | h := h <;> rw [State.physRead, h]

theorem State.readAround_storage (hpa : s.resolve .load va = .ok pa)
    (h : regionOf s.params (wordAddr pa) 4 ∈ storageRegions) :
    s.readAround va = .ok (s.mem.readWord s.params.bigEndian (wordAddr pa).toNat) := by
  have hstorage : regionOf s.params (wordAddr pa) 4 ≠ .device := fun hd => by simp [hd, storageRegions] at h
  rw [State.readAround, hpa]
  dsimp only
  rw [if_neg hstorage]
  exact State.physRead_storage (w := .word) .load h

theorem wordAddr_eq_ofNat (a : Word) : wordAddr a = BitVec.ofNat 32 (a.toNat / 4 * 4) := by
  rw [← toNat_wordAddr, BitVec.ofNat_toNat, BitVec.setWidth_eq]

/-! ### Alignment (R88) -/

theorem misaligned_half_eq_false (h : va.toNat % 2 = 0) : misaligned .half va = false := by simp [misaligned_half, h]

theorem misaligned_word_eq_false (h : va.toNat % 4 = 0) : misaligned .word va = false := by simp [misaligned_word, h]

/-! ### Loads (R226) -/

/-- What is loaded into $0 does not matter. -/
theorem LoadsOnly.congr {t : State} {rt : RegIdx} {v v' : Word} (h : LoadsOnly s t rt v) (hv : rt ≠ 0#5 → v = v') :
    LoadsOnly s t rt v' := by
  by_cases hrt : rt = 0#5
  · obtain ⟨hdelay, hframe⟩ := h
    exact ⟨by rw [hdelay, if_pos hrt, if_pos hrt], hframe⟩
  · exact hv hrt ▸ h

/-- An aligned load of bytes. -/
theorem finishLoad_storage (hm : misaligned w va = false) (hpa : s.resolve .load va = .ok pa)
    (h : regionOf s.params pa w.bytes ∈ storageRegions) {rt : RegIdx} {f : Word → Word} {v : Word}
    (hv : f (s.mem.fetch s.params.bigEndian w pa.toNat) = v) :
    ∃ t, finishLoad s rt f (s.memRead .load w va) = .next t ∧ LoadsOnly s t rt v := by
  rw [State.memRead_aligned hm hpa, State.physRead_storage .load h, ← hv]
  exact finishLoad_spec s rt f _

/-- LWL and LWR's load, a pending load into the same register forwarded (R236, R237). -/
theorem finishLoad_around (hpa : s.resolve .load va = .ok pa)
    (h : regionOf s.params (wordAddr pa) 4 ∈ storageRegions) (rt : RegIdx) (f : Word → Word → Word) :
    ∃ t, finishLoad s rt (fun w => f w (s.forwarded rt)) (s.readAround va) = .next t
      ∧ LoadsOnly s t rt (f (s.mem.readWord s.params.bigEndian (wordAddr pa).toNat) (s.settled rt)) := by
  rw [State.readAround_storage hpa h]
  obtain ⟨t, ht, hloads⟩ := finishLoad_spec s rt (fun w => f w (s.forwarded rt))
    (s.mem.readWord s.params.bigEndian (wordAddr pa).toNat)
  exact ⟨t, ht, hloads.congr fun hrt => by rw [State.settled, if_neg hrt]⟩

/-! ### Stores -/

/-- An aligned store into RAM. -/
theorem finishStore_ram (hm : misaligned w va = false) (hpa : s.resolve .store va = .ok pa)
    (h : regionOf s.params pa w.bytes = .ram) (v : Word) :
    ∃ t, finishStore s (s.memWrite w va v) = .next t ∧ MemoryOnly s t
      ∧ t.mem = s.mem.store s.params.bigEndian w pa.toNat v := by
  rw [State.memWrite_aligned hm hpa, State.physWrite, h]
  exact finishStore_spec s _

/-- SWL and SWR's store into RAM. -/
theorem finishStore_around (hpa : s.resolve .store va = .ok pa) (h : regionOf s.params (wordAddr pa) 4 = .ram)
    (f : Word → Word) :
    ∃ t, finishStore s (s.writeAround va f) = .next t ∧ MemoryOnly s t
      ∧ t.mem = s.mem.writeWord s.params.bigEndian (wordAddr pa).toNat
          (f (s.mem.readWord s.params.bigEndian (wordAddr pa).toNat)) := by
  rw [State.writeAround, hpa]
  dsimp only
  rw [h]
  exact finishStore_spec s _

end

/-! ### The addressed byte (R241) -/

theorem State.position_eq (s : State) (va : Word) :
    s.position va = if s.params.bigEndian then 3 - va.toNat % 4 else va.toNat % 4 := by
  rw [State.position, bytePosition_eq, significance]

theorem State.position_lt (s : State) (va : Word) : s.position va < 4 := by
  rw [State.position, bytePosition_eq]
  exact significance_lt (by omega)

/-! ### The bytes stored -/

/-- The bytes of the low half of a word, in storage order (R87, R235). -/
theorem byteOfHalf_setWidth (be : Bool) (w : Word) {i : Nat} (hi : i < 2) : byteOfHalf be (w.setWidth 16) i =
    if be then w.extractLsb' (8 - 8 * i) 8 else w.extractLsb' (8 * i) 8 := by
  rw [byteOfHalf, BitVec.extractLsb'_setWidth_of_le (by omega), BitVec.extractLsb'_setWidth_of_le (by omega)]

/-- The bytes of a stored word by significance position: what a merge makes of each byte decides what memory reads. -/
theorem Memory.read_writeWord_merged (be : Bool) (m : Memory) (wa : Nat) (merged reg : Word) (takes : Nat → Prop)
    [DecidablePred takes] (source : Nat → Nat)
    (h : ∀ j, j < 4 → merged.extractLsb' (8 * j) 8 =
      if takes j then reg.extractLsb' (8 * source j) 8 else (m.readWord be wa).extractLsb' (8 * j) 8) (a : Nat) :
    (m.writeWord be wa merged).read a =
      if wa ≤ a ∧ a < wa + 4 ∧ takes (significance be (a - wa)) then
        reg.extractLsb' (8 * source (significance be (a - wa))) 8
      else m.read a := by
  rw [Memory.read_writeWord]
  by_cases hin : wa ≤ a ∧ a < wa + 4
  · obtain ⟨hlow, hhigh⟩ := hin
    have hoffset : a - wa < 4 := by omega
    rw [if_pos ⟨hlow, hhigh⟩, byteOfWord_eq be _ hoffset, h _ (significance_lt hoffset),
      Memory.byte_readWord be m wa hoffset, show wa + (a - wa) = a by omega]
    simp only [hlow, hhigh, true_and]
  · rw [if_neg hin, if_neg fun ⟨hlow, hhigh, _⟩ => hin ⟨hlow, hhigh⟩]

end Sys2Proof.Machine
end

section
/-! SUPPORT. The statements of 42_loadstore.md about storage: stores, and the unaligned accesses byte by byte. -/

namespace Sys2Proof.Machine

/-- Settles O20: the bytes of the stored value by storage order, through the access that nothing stops. -/
theorem storesToRam : Obligations.StoresToRam := by
  unfold Obligations.StoresToRam
  intro s rt rs imm pa hpa
  refine ⟨fun hram => ?_, fun hram halign => ?_, fun hram halign => ?_⟩
  · obtain ⟨t, ht, honly, hmem⟩ := finishStore_ram (w := .byte) rfl hpa hram (s.rt rt)
    refine ⟨t, ht, honly, fun a => ?_⟩
    rw [hmem, ← BitVec.setWidth_eq_extractLsb' (by omega)]
    exact Memory.read_write ..
  · obtain ⟨t, ht, honly, hmem⟩ := finishStore_ram (misaligned_half_eq_false halign) hpa hram (s.rt rt)
    refine ⟨t, ht, honly, fun a => ?_⟩
    rw [hmem]
    refine (Memory.read_writeHalf ..).trans (ite_congr rfl (fun hin => ?_) fun _ => rfl)
    exact byteOfHalf_setWidth s.params.bigEndian (s.rt rt) (by omega)
  · obtain ⟨t, ht, honly, hmem⟩ := finishStore_ram (misaligned_word_eq_false halign) hpa hram (s.rt rt)
    exact ⟨t, ht, honly, fun a => by rw [hmem]; exact Memory.read_writeWord ..⟩

/-- Settles O19: the merge of the aligned word with the register as a pending load leaves it, byte by byte. -/
theorem unalignedLoads : Obligations.UnalignedLoads := by
  unfold Obligations.UnalignedLoads
  intro s rt rs imm va pa wa word k hva hpa hwa hregion hword hk
  rw [← wordAddr_eq_ofNat] at hwa
  obtain rfl := hk.trans (s.position_eq va).symm
  have hk4 := s.position_lt va
  subst hva hwa hword
  refine ⟨?_, ?_⟩
  · obtain ⟨t, ht, hloads⟩ := finishLoad_around hpa hregion rt (mergeLwl _)
    exact ⟨t, _, ht, hloads, fun j hj => byte_mergeLwl _ _ hk4 hj⟩
  · obtain ⟨t, ht, hloads⟩ := finishLoad_around hpa hregion rt (mergeLwr _)
    exact ⟨t, _, ht, hloads, fun j hj => byte_mergeLwr _ _ hk4 hj⟩

/-- Settles O21: the merge of the register into the aligned word, byte by byte. -/
theorem unalignedStores : Obligations.UnalignedStores := by
  unfold Obligations.UnalignedStores
  intro s rt rs imm va pa wa k hva hpa hwa hram hk position hposition
  obtain rfl := hk.trans (s.position_eq va).symm
  have hk4 := s.position_lt va
  have hpos : ∀ a, position a = significance s.params.bigEndian (a - wa) := hposition
  rw [hwa, ← wordAddr_eq_ofNat] at hram
  rw [← toNat_wordAddr] at hwa
  subst hva
  refine ⟨?_, ?_⟩
  · obtain ⟨t, ht, honly, hmem⟩ := finishStore_around hpa hram (fun w => mergeSwl _ w (s.rt rt))
    refine ⟨t, ht, honly, fun a => ?_⟩
    rw [hmem, hpos, ← hwa]
    exact Memory.read_writeWord_merged _ _ wa _ _ (fun j => j ≤ s.position _) _ (fun j hj => byte_mergeSwl _ _ hk4 hj) a
  · obtain ⟨t, ht, honly, hmem⟩ := finishStore_around hpa hram (fun w => mergeSwr _ w (s.rt rt))
    refine ⟨t, ht, honly, fun a => ?_⟩
    rw [hmem, hpos, ← hwa]
    exact Memory.read_writeWord_merged _ _ wa _ _ (fun j => s.position _ ≤ j) _ (fun j hj => byte_mergeSwr _ _ hj) a

end Sys2Proof.Machine
end

section
/-! SUPPORT. Pending loads land (R226): at the end of every instruction each register it does not write or load itself
is settled, and no load is pending for it. -/

namespace Sys2Proof.Machine

/-- Every register but `own`, the one the instruction itself writes or loads, has its pending value. -/
def Lands (s t : State) (own : Option RegIdx) : Prop :=
  ∀ r : RegIdx, own ≠ some r → t.reg r = s.settled r ∧ ∀ v, t.ldelay ≠ some (r, v)

/-! ### The end of a step -/

theorem regOf_writeOpt_of_ne {g : Vector Word 32} {p : Option (RegIdx × Word)} {r : RegIdx}
    (h : ∀ q ∈ p, q.1 ≠ r) : regOf (writeOpt g p) r = regOf g r := by
  cases p with
  | none => rfl
  | some q =>
    obtain ⟨q, v⟩ := q
    rw [writeOpt, regOf_setReg, if_neg fun hr => h (q, v) rfl hr.symm]

/-- A step's own load drops no pending load but one into the same register. -/
theorem regOf_landing_of_ne {g : Vector Word 32} {pending load : Option (RegIdx × Word)} {r : RegIdx}
    (h : ∀ q ∈ load, q.1 ≠ r) : regOf (writeOpt g (landing pending load)) r = regOf (writeOpt g pending) r := by
  cases load with
  | none => rw [landing_none]
  | some q =>
    obtain ⟨q, w⟩ := q
    cases pending with
    | none => rfl
    | some p =>
      obtain ⟨p, v⟩ := p
      by_cases hq : q = p
      · have hp : p ≠ r := hq ▸ h (q, w) rfl
        rw [landing, if_pos hq, regOf_writeOpt_of_ne (p := some (p, v)) (by simpa using hp)]
        rfl
      · rw [landing, if_neg hq]

theorem newDelay_of_ne {load : Option (RegIdx × Word)} {r : RegIdx} (h : ∀ q ∈ load, q.1 ≠ r) (v : Word) :
    newDelay load ≠ some (r, v) := by
  cases load with
  | none => simp [newDelay]
  | some q =>
    obtain ⟨q, w⟩ := q
    have hq : q ≠ r := h (q, w) rfl
    by_cases hzero : q = 0#5 <;> simp [newDelay, hzero, hq]

section
variable {s t u : State} {own : Option RegIdx}

/-- The end of a step of an instruction that has changed neither the registers nor the pending load. -/
theorem lands_retire (hgpr : u.gpr = s.gpr) (hdelay : u.ldelay = s.ldelay) {e : Retire}
    (hwrite : ∀ q ∈ e.write, own = some q.1) (hload : ∀ q ∈ e.load, own = some q.1) : Lands s (u.retire e) own := by
  intro r hr
  have hload' : ∀ q ∈ e.load, q.1 ≠ r := fun q hq hqr => hr (hqr ▸ hload q hq)
  have hwrite' : ∀ q ∈ e.write, q.1 ≠ r := fun q hq hqr => hr (hqr ▸ hwrite q hq)
  refine ⟨?_, newDelay_of_ne hload'⟩
  rw [State.reg_eq, State.retire_gpr, hgpr, hdelay, regOf_writeOpt_of_ne hwrite', regOf_landing_of_ne hload']
  exact regOf_settled s r

/-- An instruction that changes no register. -/
theorem lands_retire_plain (hgpr : u.gpr = s.gpr) (hdelay : u.ldelay = s.ldelay) : Lands s (u.retire {}) own :=
  lands_retire hgpr hdelay nofun nofun

/-! ### The ways an instruction ends -/

/-- An exception entry brings every pending load to its register (R226). -/
theorem raise_settles {e : Exc} (h : raise e s = .next t) (r : RegIdx) : t.reg r = s.settled r ∧ t.ldelay = none := by
  cases h
  exact ⟨regOf_settled s r, rfl⟩

theorem raise_lands {e : Exc} (h : raise e s = .next t) : Lands s t own := by
  intro r _
  obtain ⟨hreg, hdelay⟩ := raise_settles h r
  exact ⟨hreg, by simp [hdelay]⟩

theorem finish_lands {rd : RegIdx} {v : Word} (h : finish s rd v = .next t) : Lands s t (some rd) := by
  cases h
  exact lands_retire rfl rfl (by simp) nofun

theorem finishOrOverflow_lands {b : Bool} {rd : RegIdx} {v : Word} (h : finishOrOverflow s b rd v = .next t) :
    Lands s t (some rd) := by
  unfold finishOrOverflow at h
  split at h
  · exact raise_lands h
  · exact finish_lands h

theorem finishHiLo_lands {hi lo : Word} (h : finishHiLo s hi lo = .next t) : Lands s t own := by
  cases h
  exact lands_retire_plain rfl rfl

theorem finishLoad_lands {rt : RegIdx} {f : Word → Word} {a : Access Word} (h : finishLoad s rt f a = .next t) :
    Lands s t (some rt) := by
  cases a with
  | ok v => cases h; exact lands_retire rfl rfl nofun (by simp)
  | raise e => exact raise_lands h
  | refuse r => cases h

theorem finishStore_lands {a : Access State} (ha : ∀ u, a = .ok u → SameCpu s u) (h : finishStore s a = .next t) :
    Lands s t own := by
  cases a with
  | ok u => cases h; exact lands_retire_plain (ha u rfl).gpr (ha u rfl).ldelay
  | raise e => exact raise_lands h
  | refuse r => cases h

theorem finishStore_memWrite_lands {w : Width} {va v : Word} (h : finishStore s (s.memWrite w va v) = .next t) :
    Lands s t own :=
  finishStore_lands (fun _ => State.memWrite_frame) h

theorem State.writeAround_frame {va : Word} {f : Word → Word} (h : s.writeAround va f = .ok u) : SameCpu s u := by
  obtain ⟨_, _, _, rfl⟩ := State.writeAround_ok h
  constructor <;> rfl

theorem finishStore_writeAround_lands {va : Word} {f : Word → Word}
    (h : finishStore s (s.writeAround va f) = .next t) : Lands s t own :=
  finishStore_lands (fun _ => State.writeAround_frame) h

theorem finishBranch_lands {target : Option Word} {link : Option RegIdx} (h : finishBranch s target link = .next t) :
    Lands s t link := by
  unfold finishBranch at h
  split at h
  · cases h
  · cases h
    exact lands_retire rfl rfl (by cases link <;> simp) nofun

theorem ifCop0Usable_lands {k : Result} (h : ifCop0Usable s k = .next t) (hk : k = .next t → Lands s t own) :
    Lands s t own := by
  cases hu : s.cop0Usable with
  | true => rw [ifCop0Usable_pos s k hu] at h; exact hk h
  | false => rw [ifCop0Usable_neg s k hu] at h; exact raise_lands h

/-- An instruction of coprocessor 0 that goes on from a state with the same registers. -/
theorem proceed_lands (h : proceed u = .next t) (hgpr : u.gpr = s.gpr) (hdelay : u.ldelay = s.ldelay) :
    Lands s t own := by
  cases h
  exact lands_retire_plain hgpr hdelay

theorem State.cp0Write_regs {rd : RegIdx} {v : Word} (h : s.cp0Write rd v = some u) :
    u.gpr = s.gpr ∧ u.ldelay = s.ldelay := by
  unfold State.cp0Write at h
  split at h <;> cases h <;> exact ⟨rfl, rfl⟩

theorem execMfc0_lands {rt rd : RegIdx} (h : execMfc0 rt rd s = .next t) : Lands s t (some rt) :=
  ifCop0Usable_lands h fun hk => by
    split at hk
    · cases hk; exact lands_retire rfl rfl nofun (by simp)
    · cases hk

theorem execMtc0_lands {rt rd : RegIdx} (h : execMtc0 rt rd s = .next t) : Lands s t own :=
  ifCop0Usable_lands h fun hk => by
    split at hk
    · obtain ⟨hgpr, hdelay⟩ := State.cp0Write_regs ‹_›
      exact proceed_lands hk hgpr hdelay
    · cases hk

theorem execTlbwi_lands (h : execTlbwi s = .next t) : Lands s t own :=
  ifCop0Usable_lands h fun hk => by
    split at hk
    · exact proceed_lands hk rfl rfl
    · cases hk

theorem execTlbr_lands (h : execTlbr s = .next t) : Lands s t own :=
  ifCop0Usable_lands h fun hk => by
    split at hk
    · exact proceed_lands hk rfl rfl
    · cases hk

theorem execDiv_lands {rs rt : RegIdx} (h : execDiv rs rt s = .next t) : Lands s t own := by
  unfold execDiv at h
  split at h <;> exact finishHiLo_lands h

theorem execDivu_lands {rs rt : RegIdx} (h : execDivu rs rt s = .next t) : Lands s t own := by
  unfold execDivu at h
  split at h <;> exact finishHiLo_lands h

/-- Whatever the instruction, and whether it completes or traps. -/
theorem exec_lands {i : Instr} (h : exec i s = .next t) : Lands s t (written i) := by
  cases i
  case add | sub | addi => exact finishOrOverflow_lands h
  case mult | multu | mthi | mtlo => exact finishHiLo_lands h
  case div => exact execDiv_lands h
  case divu => exact execDivu_lands h
  case lb | lbu | lh | lhu | lw | lwl | lwr => exact finishLoad_lands h
  case sb | sh | sw => exact finishStore_memWrite_lands h
  case swl | swr => exact finishStore_writeAround_lands h
  case j | jal | jr | jalr | beq | bne | blez | bgtz | bltz | bgez | bltzal | bgezal => exact finishBranch_lands h
  case mfc0 => exact execMfc0_lands h
  case mtc0 => exact execMtc0_lands h
  case tlbwi => exact execTlbwi_lands h
  case tlbr => exact execTlbr_lands h
  case tlbwr | tlbclr | tlbp | rfe => exact ifCop0Usable_lands h fun hk => proceed_lands hk rfl rfl
  case syscall | brk | cop1 | cop2 | cop3 | lwc1 | lwc2 | lwc3 | swc1 | swc2 | swc3 => exact raise_lands h
  all_goals exact finish_lands h

/-! ### An interrupt -/

/-- A step's cycle is what the machine does once the agents have left `s`. -/
theorem AfterAgents.cycle_eq {r : State} {c : Cycle} (h : AfterAgents r s)
    (hturn : ∀ u : State, u.agents = s → u.machineTurn = c) : r.cycle = c := by
  unfold State.cycle
  obtain ⟨hi, hu⟩ | ⟨acts, rest, hi, hu⟩ := h
  · rw [hi]; exact hturn r hu.symm
  · rw [hi]; exact hturn _ hu.symm

/-- A step that takes an interrupt is its entry and nothing more (R250 phase 2, R362). -/
theorem step_interrupt {r : State} (h : AfterAgents r s) (hwf : s.params.wf = true) (hended : s.ended = none)
    (hint : s.interruptTaken = true) : step r = raise .int s := by
  have hcycle : r.cycle = .done (raise .int s) := h.cycle_eq fun u hu => by
    have huwf : u.params.wf = true := by rw [← hu, State.agents_params] at hwf; exact hwf
    rw [machineTurn_eq u s hu, if_pos huwf, if_neg (by simp [hended]), if_pos hint]
  rw [step, hcycle]

/-- The value a pending load is about to bring. -/
theorem State.settled_pending {rt : RegIdx} {v : Word} (hrt : rt ≠ 0#5) (h : s.ldelay = some (rt, v)) :
    s.settled rt = v := by
  simp [State.settled, State.forwarded, hrt, h]

end

end Sys2Proof.Machine
end

section
/-! SUPPORT. The statement of 42_loadstore.md about the load delay. -/

namespace Sys2Proof.Machine

/-- Settles O18: every end of an instruction lands the pending load, and so does every entry. -/
theorem loadedValueArrives : Obligations.LoadedValueArrives := by
  unfold Obligations.LoadedValueArrives
  intro s t rt v hrt hpending
  rw [← State.settled_pending hrt hpending]
  exact ⟨fun i hi hown => exec_lands hi rt hown, fun e he => raise_settles he rt,
    fun r hagents hwf hended hint ht => raise_settles (step_interrupt hagents hwf hended hint ▸ ht) rt⟩

end Sys2Proof.Machine
end

section
/-! SUPPORT. Loads in the bus and device area: the word each address names, what a device's words show, and the loads
the area refuses (R92). -/

namespace Sys2Proof.Machine

/-! ### The words of the area (R380, R387, R388, R395) -/

/-- From word 20 on the area is device registers. -/
theorem State.readBus_device (s : State) {n : Nat} (hn : 20 ≤ n) :
    s.readBus n = s.readDevice (lineOfWord n) (devOfWord n) (fieldOfWord n) := by
  obtain ⟨m, rfl⟩ := Nat.exists_eq_add_of_le' hn
  rfl

/-- Words 15 to 19 are the lines' pending maps. -/
theorem State.readBus_pendingMap (s : State) {line : Nat} (hlow : 3 ≤ line) (hhigh : line ≤ 7) :
    s.readBus (15 + (line - 3)) = s.pendingMap line := by
  interval_cases line <;> rfl

/-- The words below are the bus registers and the Installed Devices Bit Map. -/
theorem State.readBus_busWords {s : State} {pa : Word} {p : Nat × Word} (hp : p ∈ busWords s) (hpa : pa.toNat = p.1) :
    s.readBus (busWordOf pa) = p.2 := by
  rw [busWordOf, hpa]
  simp only [busWords, List.mem_cons, List.not_mem_nil, or_false] at hp
  obtain rfl | rfl | rfl | rfl | rfl | rfl | rfl | rfl | rfl | rfl | rfl | rfl | rfl | rfl | rfl := hp <;>
    (dsimp only; rfl)

/-- The word of a device register's address: its line, device and field. -/
theorem State.readBus_deviceAddr (s : State) {pa : Word} {line : Nat} {d : DevNo} {f : Nat} (hline : 3 ≤ line)
    (hf : f < 4) (hpa : pa.toNat = deviceAddr line d f) : s.readBus (busWordOf pa) = s.readDevice line d f := by
  have hd := d.isLt
  have hword : busWordOf pa = 20 + (line - 3) * 32 + d.val * 4 + f := by
    rw [busWordOf, hpa, deviceAddr]
    omega
  have hlineOf : lineOfWord (busWordOf pa) = line := by rw [hword, lineOfWord]; omega
  have hdevOf : devOfWord (busWordOf pa) = d := Fin.ext (by rw [hword]; simp only [devOfWord]; omega)
  have hfieldOf : fieldOfWord (busWordOf pa) = f := by rw [hword, fieldOfWord]; omega
  rw [s.readBus_device (by omega), hlineOf, hdevOf, hfieldOf]

/-! ### The pending maps (R388) -/

/-- A line's word has a bit for each of its eight devices and no other. -/
theorem getLsbD_bankBits_of_ge (f : DevNo → Bool) {i : Nat} (hlow : 8 ≤ i) (hi : i < 32) :
    (bankBits f).getLsbD i = false := by
  simp only [bankBits, BitVec.getLsbD_or, getLsbD_boolWord_shiftLeft _ _ hi, getLsbD_boolWord _ hi]
  simp [show i ≠ 0 by omega, show i ≠ 1 by omega, show i ≠ 2 by omega, show i ≠ 3 by omega, show i ≠ 4 by omega,
    show i ≠ 5 by omega, show i ≠ 6 by omega, show i ≠ 7 by omega]

theorem State.pendingMap_eq (s : State) {line : Nat} (hlow : 3 ≤ line) (hhigh : line ≤ 7) :
    s.pendingMap line = bankBits (s.interruptPending line) := by
  by_cases hnetwork : line = 5
  · subst hnetwork
    exact (bankBits_eq_zero fun _ => rfl).symm
  · obtain rfl | rfl | rfl | rfl : line = 3 ∨ line = 4 ∨ line = 6 ∨ line = 7 := by omega
    all_goals rfl

theorem bitAt_bankBits (f : DevNo → Bool) {i : Nat} (hi : i < 32) :
    bitAt (bankBits f) i = if h : i < 8 then f ⟨i, h⟩ else false := by
  by_cases h : i < 8
  · rw [dif_pos h]; exact getLsbD_bankBits f ⟨i, h⟩
  · rw [dif_neg h]; exact getLsbD_bankBits_of_ge f (by omega) hi

/-! ### What a device's words show (R395, R416) -/

/-- The marker after the last block is EOT (R416). -/
theorem markerCode_last {blocks : List TapeBlock} {p : Nat} (h : blocks.length ≤ p + 1) :
    markerCode blocks (p + 1) = 0#32 := by
  rw [markerCode, if_pos h]

/-- A marker between two blocks is EOF or EOB as the block before it ends a file or not (R415, R416). -/
theorem markerCode_between {blocks : List TapeBlock} {p : Nat} {b : TapeBlock} (h : p + 1 < blocks.length)
    (hb : blocks[p]? = some b) : markerCode blocks (p + 1) = if b.endsFile then 1#32 else 2#32 := by
  rw [markerCode, if_neg (by omega), hb]

/-- A tape's DATA1 shows the host's word or its marker (R416, log entry 12). -/
theorem Tape.showsData1_data1Read (k : Tape) (d : DevNo) (draws : Nat) :
    k.showsData1 (k.reg.data1Read (k.marker d draws)) := by
  refine ⟨fun v hv => by rw [DevReg.data1Read, hv]; rfl, fun hnone hidle => ?_⟩
  rw [DevReg.data1Read_none _ _ hnone]
  refine ⟨fun hc => by rw [Tape.marker, hc], fun blocks hc => ?_⟩
  have hmarker : k.marker d draws = markerCode blocks k.head := by
    rw [Tape.marker, hc]
    exact if_neg (by simp [hidle])
  rw [hmarker]
  refine ⟨fun hstart => by rw [hstart]; rfl, fun hpos hlast => ?_, fun p b hp hinside hb => ?_⟩
  · obtain ⟨p, hp⟩ := Nat.exists_eq_add_of_lt hpos
    rw [Nat.zero_add] at hp
    rw [hp, markerCode_last (by omega)]
  · rw [hp, markerCode_between (by omega) hb]

theorem State.deviceShows_readDevice (s : State) {line : Nat} (hlow : 3 ≤ line) (hhigh : line ≤ 7) (d : DevNo) {f : Nat}
    (hf : f < 4) : s.deviceShows line d f (s.readDevice line d f) := by
  obtain rfl | rfl | rfl | rfl | rfl : line = 3 ∨ line = 4 ∨ line = 5 ∨ line = 6 ∨ line = 7 := by omega
  · cases hi : s.params.disks.getLsbD d
    · simp only [State.deviceShows, State.readDevice, hi, Bool.false_eq_true, if_false]
    · simp only [State.deviceShows, State.readDevice, hi, if_true]
      interval_cases f <;> rfl
  · have hdata1 := s.tapes[d].showsData1_data1Read d s.draws
    cases hi : s.params.tapes.getLsbD d
    · simp only [State.deviceShows, State.readDevice, hi, Bool.false_eq_true, if_false]
    · simp only [State.deviceShows, State.readDevice, hi, if_true]
      interval_cases f
      exacts [rfl, rfl, rfl, hdata1]
  · rfl
  · cases hi : s.params.printers.getLsbD d
    · simp only [State.deviceShows, State.readDevice, hi, Bool.false_eq_true, if_false]
    · simp only [State.deviceShows, State.readDevice, hi, if_true]
      interval_cases f <;> rfl
  · rfl

/-! ### Loads in the area (R92, R96) -/

section
variable {s : State} {w : Width} {va pa : Word}

/-- LW reads a word of the area. -/
theorem finishLoad_bus (hm : misaligned .word va = false) (hpa : s.resolve .load va = .ok pa)
    (h : regionOf s.params pa 4 = .device) (rt : RegIdx) {v : Word} (hv : s.readBus (busWordOf pa) = v) :
    ∃ t, finishLoad s rt id (s.memRead .load .word va) = .next t ∧ LoadsOnly s t rt v := by
  have hregion : regionOf s.params pa Width.word.bytes = .device := h
  rw [State.memRead_aligned hm hpa, State.physRead, hregion]
  dsimp only
  rw [if_pos rfl, hv]
  exact finishLoad_spec s rt id _

/-- A byte of the area is in it whatever the width of its access. -/
theorem regionOf_device {p : Params} {pa : Word} (hwf : p.wf = true) (h : 0x10000000 ≤ pa.toNat)
    (h' : pa.toNat < 0x100002D0) {n : Nat} (hn : 0 < n) : regionOf p pa n = .device := by
  obtain ⟨hrom, _⟩ := Params.wf_sizes hwf
  rw [regionOf_eq, if_neg (by omega), if_pos ⟨h, h'⟩]

theorem regionOf_device_bounds {p : Params} {pa : Word} {n : Nat} (h : regionOf p pa n = .device) :
    0x10000000 ≤ pa.toNat ∧ pa.toNat < 0x100002D0 := by
  by_contra hout
  rw [regionOf_eq, if_neg (c := 0x10000000 ≤ pa.toNat ∧ pa.toNat < 0x100002D0) hout] at h
  (repeat' split at h) <;> cases h

section
variable (hwf : s.params.wf = true) (hpa : s.resolve .load va = .ok pa) (h : regionOf s.params pa 1 = .device)
include hwf hpa h

/-- A byte or halfword load in the area is refused. -/
theorem finishLoad_subWord (hw : w ≠ .word) (hm : misaligned w va = false) (rt : RegIdx) (f : Word → Word) :
    finishLoad s rt f (s.memRead .load w va) = .refused .subWordDeviceAccess := by
  obtain ⟨hlow, hhigh⟩ := regionOf_device_bounds h
  rw [State.memRead_aligned hm hpa, State.physRead, regionOf_device hwf hlow hhigh w.bytes_pos]
  dsimp only
  rw [if_neg hw]
  rfl

/-- So are LWL and LWR at every byte position. -/
theorem finishLoad_around_device (rt : RegIdx) (f : Word → Word) :
    finishLoad s rt f (s.readAround va) = .refused .subWordDeviceAccess := by
  obtain ⟨hlow, hhigh⟩ := regionOf_device_bounds h
  have hword : regionOf s.params (wordAddr pa) 4 = .device :=
    regionOf_device hwf (by rw [toNat_wordAddr]; omega) (by rw [toNat_wordAddr]; omega) (by omega)
  rw [State.readAround, hpa]
  dsimp only
  rw [if_pos hword]
  rfl

end

end

end Sys2Proof.Machine
end

section
/-! SUPPORT. The statement of 42_loadstore.md about aligned loads. -/

namespace Sys2Proof.Machine

section
variable {s : State} {rt rs : RegIdx} {imm : BitVec 16} {va pa : Word}

/-- The five aligned loads from RAM or ROM (R229 to R233). -/
theorem exec_loads_storage (hva : va = s.rs rs + imm.signExtend 32) (hpa : s.resolve .load va = .ok pa) :
    (regionOf s.params pa 1 ∈ storageRegions →
        (∃ t, exec (.lb rt rs imm) s = .next t ∧ LoadsOnly s t rt ((s.mem.read pa.toNat).signExtend 32))
          ∧ ∃ t, exec (.lbu rt rs imm) s = .next t ∧ LoadsOnly s t rt ((s.mem.read pa.toNat).setWidth 32))
      ∧ (regionOf s.params pa 2 ∈ storageRegions → va.toNat % 2 = 0 →
        (∃ t, exec (.lh rt rs imm) s = .next t
            ∧ LoadsOnly s t rt ((s.mem.readHalf s.params.bigEndian pa.toNat).signExtend 32))
          ∧ ∃ t, exec (.lhu rt rs imm) s = .next t
            ∧ LoadsOnly s t rt ((s.mem.readHalf s.params.bigEndian pa.toNat).setWidth 32))
      ∧ (regionOf s.params pa 4 ∈ storageRegions → va.toNat % 4 = 0 →
        ∃ t, exec (.lw rt rs imm) s = .next t ∧ LoadsOnly s t rt (s.mem.readWord s.params.bigEndian pa.toNat)) := by
  subst hva
  refine ⟨fun hregion => ⟨?_, ?_⟩, fun hregion halign => ⟨?_, ?_⟩, fun hregion halign => ?_⟩
  · exact finishLoad_storage (w := .byte) (f := sextByte) rfl hpa hregion (by simp [sextByte, Memory.fetch])
  · exact finishLoad_storage (w := .byte) (f := id) rfl hpa hregion rfl
  · exact finishLoad_storage (f := sextHalf) (misaligned_half_eq_false halign) hpa hregion
      (by simp [sextHalf, Memory.fetch])
  · exact finishLoad_storage (f := id) (misaligned_half_eq_false halign) hpa hregion rfl
  · exact finishLoad_storage (f := id) (misaligned_word_eq_false halign) hpa hregion rfl

/-- The six loads but LW in the bus and device area. -/
theorem exec_loads_refused (hva : va = s.rs rs + imm.signExtend 32) (hpa : s.resolve .load va = .ok pa)
    (hwf : s.params.wf = true) (h : regionOf s.params pa 1 = .device) {i : Instr}
    (hi : i ∈ [Instr.lb rt rs imm, .lbu rt rs imm, .lh rt rs imm, .lhu rt rs imm, .lwl rt rs imm, .lwr rt rs imm])
    (hm : mayAccess i va = true) : exec i s = .refused .subWordDeviceAccess := by
  subst hva
  simp only [List.mem_cons, List.not_mem_nil, or_false] at hi
  obtain rfl | rfl | rfl | rfl | rfl | rfl := hi
  · exact finishLoad_subWord (w := .byte) hwf hpa h nofun rfl ..
  · exact finishLoad_subWord (w := .byte) hwf hpa h nofun rfl ..
  · exact finishLoad_subWord (w := .half) hwf hpa h nofun (misaligned_half_eq_false (of_decide_eq_true hm)) ..
  · exact finishLoad_subWord (w := .half) hwf hpa h nofun (misaligned_half_eq_false (of_decide_eq_true hm)) ..
  · exact finishLoad_around_device hwf hpa h ..
  · exact finishLoad_around_device hwf hpa h ..

end

/-- Settles O17: storage by the bytes read, the bus and device area by its words, which only LW may load. -/
theorem loadsFromMemory : Obligations.LoadsFromMemory := by
  unfold Obligations.LoadsFromMemory
  intro s rt rs imm pa hpa b0 b1 b2 b3 h0 h1 h2 h3
  obtain ⟨hbytes, hhalves, hwords⟩ := exec_loads_storage (rt := rt) rfl hpa
  refine ⟨fun region hregion => ⟨fun h => ?_, fun h halign half hhalf => ?_, fun h halign => ?_⟩,
    fun hdevice halign => ?_, fun hwf hdevice i hi hm => exec_loads_refused rfl hpa hwf hdevice hi hm⟩
  · rw [h0]; exact hbytes (h ▸ hregion)
  · rw [hhalf, h0, h1]; exact hhalves (h ▸ hregion) halign
  · rw [h0, h1, h2, h3]; exact hwords (h ▸ hregion) halign
  · have hlw {v : Word} (hv : s.readBus (busWordOf pa) = v) :
        ∃ t, exec (.lw rt rs imm) s = .next t ∧ LoadsOnly s t rt v :=
      finishLoad_bus (misaligned_word_eq_false halign) hpa hdevice rt hv
    refine ⟨fun p hp haddr => hlw (State.readBus_busWords hp haddr), fun line hlow hhigh haddr => ?_,
      fun line d f hlow hhigh hf haddr => ?_⟩
    · have hword : busWordOf pa = 15 + (line - 3) := by rw [busWordOf, haddr]; omega
      obtain ⟨t, ht, hloads⟩ := hlw (by rw [hword, s.readBus_pendingMap hlow hhigh, s.pendingMap_eq hlow hhigh])
      exact ⟨t, _, ht, hloads, fun i hi => bitAt_bankBits _ hi⟩
    · obtain ⟨t, ht, hloads⟩ := hlw (s.readBus_deviceAddr hlow hf haddr)
      exact ⟨t, ht, hloads, s.deviceShows_readDevice hlow hhigh d hf⟩

end Sys2Proof.Machine
end

section
/-! SUPPORT. Jumps and branches: the targets as exact arithmetic (R255), the conditions as comparisons with 0 (R262 to
R267), and the two ends of each instruction, outside a delay slot and in one. -/

namespace Sys2Proof.Machine

/-! ### Targets (R255) -/

/-- The offset counts instructions, four bytes each. -/
theorem branchOffset_eq_ofInt (imm : BitVec 16) : branchOffset imm = BitVec.ofInt 32 (imm.toInt * 4) := by
  rw [branchOffset, BitVec.shiftLeft_eq_mul_twoPow, BitVec.ofInt_mul, ← toInt_sext16, BitVec.ofInt_toInt]
  rfl

theorem State.branchTarget_eq (s : State) (imm : BitVec 16) :
    s.branchTarget imm = s.pc + 4#32 + BitVec.ofInt 32 (imm.toInt * 4) := by
  rw [State.branchTarget, branchOffset_eq_ofInt]

/-- A jump keeps the 256 MB region of its delay slot and replaces the rest of the address. -/
theorem State.jumpTarget_eq_ofNat (s : State) (target : BitVec 26) :
    s.jumpTarget target = BitVec.ofNat 32 ((s.pc + 4#32).toNat / 2 ^ 28 * 2 ^ 28 + target.toNat * 4) := by
  apply BitVec.eq_of_toNat_eq
  have hslot := (s.pc + 4#32).isLt
  have htarget := target.isLt
  rw [State.jumpTarget, BitVec.toNat_append, BitVec.toNat_append, BitVec.extractLsb'_toNat, BitVec.toNat_ofNat,
    BitVec.toNat_ofNat, Nat.zero_mod, Nat.or_zero, ← Nat.shiftLeft_add_eq_or_of_lt htarget, Nat.shiftLeft_eq,
    Nat.shiftLeft_eq, Nat.shiftRight_eq_div_pow]
  omega

/-! ### Conditions (R262 to R267) -/

/-- The sign bit is the test of BLTZ and BLTZAL (R264, R266). -/
theorem negative_eq_decide (a : Word) : negative a = decide (a.toInt < 0) := by
  rw [← BitVec.msb_eq_toInt, BitVec.msb_eq_getLsbD_last, negative]

theorem not_negative_eq_decide (a : Word) : (!negative a) = decide (0 ≤ a.toInt) := by
  rw [negative_eq_decide, ← decide_not, decide_eq_decide, Int.not_lt]

theorem not_signedNotPositive_eq_decide (a : Word) : (!signedNotPositive a) = decide (0 < a.toInt) := by
  rw [signedNotPositive, ← decide_not, decide_eq_decide, Int.not_le]

/-! ### The ends of the instructions -/

/-- A jump or branch in a delay slot, whatever its target and link (R253). -/
theorem finishBranch_inslot {s : State} (h : s.inslot = true) (target : Option Word) (link : Option RegIdx) :
    finishBranch s target link = .refused .branchInDelaySlot :=
  if_pos h

/-- Where a conditional branch goes after its delay slot (R255). -/
def branchDest (s : State) (imm : BitVec 16) (taken : Bool) : Word :=
  if taken then s.pc + 4#32 + BitVec.ofInt 32 (imm.toInt * 4) else nextButOne s

theorem State.takenTo_getD (s : State) (imm : BitVec 16) (taken : Bool) :
    (s.takenTo taken imm).getD (nextButOne s) = branchDest s imm taken := by
  cases taken with
  | true => exact s.branchTarget_eq imm
  | false => rfl

section
variable {s : State} (hslot : s.inslot = false) (imm : BitVec 16) {test taken : Bool}
include hslot

/-- A conditional branch whose test is `taken` in the form a statement gives it. -/
theorem finishBranch_conditional (htest : test = taken) :
    ∃ t, finishBranch s (s.takenTo test imm) none = .next t ∧ SameRegs s t ∧ Branches s t (branchDest s imm taken) := by
  rw [← htest, ← s.takenTo_getD]
  exact finishBranch_spec s _ hslot

/-- One that links, taken or not (R266, R267). -/
theorem finishBranch_conditional_link (htest : test = taken) (r : RegIdx) :
    ∃ t, finishBranch s (s.takenTo test imm) (some r) = .next t ∧ WroteReg s t r (s.pc + 8#32)
      ∧ Branches s t (branchDest s imm taken) := by
  rw [← htest, ← s.takenTo_getD]
  exact finishBranch_link_spec s _ r hslot

end

end Sys2Proof.Machine
end

section
/-! SUPPORT. The statements of 43_control.md. -/

namespace Sys2Proof.Machine

/-- Settles O4: the cycle of a step that fetches `w` is the decoder's answer on `w`. -/
theorem stepRunsDecodedInstruction : Obligations.StepRunsDecodedInstruction := by
  unfold Obligations.StepRunsDecodedInstruction
  intro s u w i hfetch hdecode
  rw [step, hfetch.cycle_eq, decodeStep, hdecode]

/-- Settles O28: the four jumps end as `finishBranch` does outside a delay slot; a jump's target is an append. -/
theorem jumpResults : Obligations.JumpResults := by
  unfold Obligations.JumpResults
  intro s target rd rs dest hslot hdest
  rw [← s.jumpTarget_eq_ofNat] at hdest
  subst hdest
  exact ⟨finishBranch_spec s (some (s.jumpTarget target)) hslot,
    finishBranch_link_spec s (some (s.jumpTarget target)) 31#5 hslot,
    finishBranch_spec s (some (s.rs rs)) hslot, finishBranch_link_spec s (some (s.rs rs)) rd hslot⟩

/-- Settles O29: each branch's test is the comparison the statement names, and the eight end alike. -/
theorem branchResults : Obligations.BranchResults := by
  unfold Obligations.BranchResults
  intro s rs rt imm dest hslot hdest
  obtain rfl : dest = branchDest s imm := funext hdest
  exact ⟨finishBranch_conditional hslot imm rfl, finishBranch_conditional hslot imm rfl,
    finishBranch_conditional hslot imm rfl,
    finishBranch_conditional hslot imm (not_signedNotPositive_eq_decide _),
    finishBranch_conditional hslot imm (negative_eq_decide _),
    finishBranch_conditional hslot imm (not_negative_eq_decide _),
    finishBranch_conditional_link hslot imm (negative_eq_decide _) 31#5,
    finishBranch_conditional_link hslot imm (not_negative_eq_decide _) 31#5⟩

/-- Settles O30: the twelve all end in `finishBranch`, which refuses in a delay slot. -/
theorem branchInDelaySlotRefused : Obligations.BranchInDelaySlotRefused := by
  unfold Obligations.BranchInDelaySlotRefused
  intro s target rd rs rt imm hslot i hi
  simp only [List.mem_cons, List.not_mem_nil, or_false] at hi
  obtain rfl | rfl | rfl | rfl | rfl | rfl | rfl | rfl | rfl | rfl | rfl | rfl := hi <;>
    exact finishBranch_inslot hslot _ _

end Sys2Proof.Machine
end

section
/-! SUPPORT. The instructions of 44_system.md: the usability test, the CP0 registers by number, the TLB's slots, and the
ends of the instructions that change CP0 registers or the TLB alone. -/

namespace Sys2Proof.Machine

/-! ### Coprocessor usability (R272) -/

/-- User-mode with CU[0] = 0. -/
theorem State.cop0Usable_eq_false {s : State} (huser : bitAt s.status 1 = true) (hcu : bitAt s.status 28 = false) :
    s.cop0Usable = false := by
  have huserMode : s.userMode = true := huser
  have hcu0 : s.cu0 = false := hcu
  rw [State.cop0Usable, huserMode, hcu0]
  rfl

/-- What an instruction of coprocessor 0 does when it is not usable, whatever the instruction. -/
theorem ifCop0Usable_enters {s : State} (h : s.cop0Usable = false) (k : Result) :
    ∃ t, ifCop0Usable s k = .next t ∧ EntersPlain s t 11#5 ∧ t.cause.extractLsb' 28 2 = 0#2 := by
  rw [ifCop0Usable_neg s k h]
  exact raise_cpu s 0#2

/-! ### The CP0 registers by number (R32, R275, R276) -/

/-- The numbers that name a CP0 register (R32). -/
def cp0Numbers : List RegIdx := [0#5, 1#5, 2#5, 8#5, 10#5, 12#5, 13#5, 14#5, 15#5]

/-- What MFC0 reads of each of them (R275). -/
def State.cp0Values (s : State) : List (RegIdx × Word) :=
  [(0#5, s.index &&& 0x80003F00#32), (1#5, s.random &&& 0x00003F00#32), (2#5, s.entryLo), (8#5, s.badVAddr),
    (10#5, s.entryHi), (12#5, s.status), (13#5, s.causeRead), (14#5, s.epc), (15#5, s.params.prid)]

theorem State.cp0Read_of_mem {s : State} {rd : RegIdx} {v : Word} (h : (rd, v) ∈ s.cp0Values) :
    s.cp0Read rd = some v := by
  simp only [State.cp0Values, List.mem_cons, List.not_mem_nil, or_false, Prod.mk.injEq] at h
  obtain ⟨rfl, rfl⟩ | ⟨rfl, rfl⟩ | ⟨rfl, rfl⟩ | ⟨rfl, rfl⟩ | ⟨rfl, rfl⟩ | ⟨rfl, rfl⟩ | ⟨rfl, rfl⟩ | ⟨rfl, rfl⟩ |
    ⟨rfl, rfl⟩ := h <;> rfl

theorem State.cp0Read_eq_none (s : State) {rd : RegIdx} (h : rd ∉ cp0Numbers) : s.cp0Read rd = none := by
  unfold State.cp0Read
  split
  case h_10 => rfl
  all_goals exact absurd (by decide) h

theorem State.cp0Write_eq_none (s : State) {rd : RegIdx} (v : Word) (h : rd ∉ cp0Numbers) :
    s.cp0Write rd v = none := by
  unfold State.cp0Write
  split
  case h_10 => rfl
  all_goals exact absurd (by decide) h

/-- The state after a write of CP0 register `rd`, register by register: the five that software can write (R276). -/
def State.cp0Written (s : State) (rd : RegIdx) (v : Word) : State :=
  { s with
    index := if rd = 0#5 then mergeBits 0x00003F00#32 v s.index else s.index
    entryLo := if rd = 2#5 then s.entryLoWritten v else s.entryLo
    entryHi := if rd = 10#5 then s.entryHiWritten v else s.entryHi
    status := if rd = 12#5 then s.statusWritten v else s.status
    cause := if rd = 13#5 then causeWritten s.cause v else s.cause }

theorem State.cp0Write_of_mem (s : State) {rd : RegIdx} (v : Word) (h : rd ∈ cp0Numbers) :
    s.cp0Write rd v = some (s.cp0Written rd v) := by
  simp only [cp0Numbers, List.mem_cons, List.not_mem_nil, or_false] at h
  obtain rfl | rfl | rfl | rfl | rfl | rfl | rfl | rfl | rfl := h <;> rfl

/-! ### The bits a software write changes (R41, R47, R53 to R55) -/

theorem getLsbD_indexMask : ∀ i : Nat, i < 32 → (0x00003F00#32).getLsbD i = decide (8 ≤ i ∧ i ≤ 13) := by decide

theorem getLsbD_softwareLinesMask : ∀ i : Nat, i < 32 → (0x00000300#32).getLsbD i = decide (i = 8 ∨ i = 9) := by
  decide

theorem getLsbD_entryLoMask : ∀ i : Nat, i < 32 → (0xFFFFFF00#32).getLsbD i = decide (8 ≤ i) := by decide

theorem getLsbD_entryHiMask : ∀ i : Nat, i < 32 → (0xFFFFFFC0#32).getLsbD i = decide (6 ≤ i) := by decide

section
variable (s : State) (v : Word) {i : Nat}

theorem State.bitAt_entryLoWritten (hlow : 8 ≤ i) (hi : i < 32) : bitAt (s.entryLoWritten v) i = bitAt v i := by
  rw [bitAt, State.entryLoWritten, getLsbD_mergeBits, getLsbD_entryLoMask i hi, if_pos (by simpa using hlow), bitAt]

theorem State.bitAt_entryHiWritten (hlow : 6 ≤ i) (hi : i < 32) : bitAt (s.entryHiWritten v) i = bitAt v i := by
  rw [bitAt, State.entryHiWritten, getLsbD_mergeBits, getLsbD_entryHiMask i hi, if_pos (by simpa using hlow), bitAt]

/-- The named fields take their bits, whatever the open bits are. -/
theorem State.bitAt_statusWritten
    (hi : i ∈ [0, 1, 2, 3, 4, 5, 8, 9, 10, 11, 12, 13, 14, 15, 22, 24, 25, 26, 28]) :
    bitAt (s.statusWritten v) i = bitAt v i := by
  have hnamed : statusNamed.getLsbD i = true := by revert i; decide
  have hbit := congrArg (·.getLsbD i) (s.statusWritten_named v)
  simpa [bitAt, hnamed] using hbit

theorem State.bitAt_statusWritten_cu (hlow : 29 ≤ i) (hi : i < 32) : bitAt (s.statusWritten v) i = false :=
  (cuClear_iff _).1 (s.cuClear_statusWritten v) i hlow hi

theorem State.bitAt_cp0Written_index (rd : RegIdx) (hi : i < 32) : bitAt (s.cp0Written rd v).index i =
    if rd = 0#5 ∧ 8 ≤ i ∧ i ≤ 13 then bitAt v i else bitAt s.index i := by
  by_cases hrd : rd = 0#5 <;> simp [State.cp0Written, hrd, bitAt, getLsbD_mergeBits, getLsbD_indexMask i hi]

theorem State.bitAt_cp0Written_cause (rd : RegIdx) (hi : i < 32) : bitAt (s.cp0Written rd v).cause i =
    if rd = 13#5 ∧ (i = 8 ∨ i = 9) then bitAt v i else bitAt s.cause i := by
  by_cases hrd : rd = 13#5 <;>
    simp [State.cp0Written, hrd, bitAt, causeWritten, getLsbD_mergeBits, getLsbD_softwareLinesMask i hi]

end

/-! ### The TLB's slots (R281 to R284) -/

section
variable {s t : State} {k : Nat} (hk : k < 64)
include hk

theorem State.tlbAt_of_lt : s.tlbAt k = s.tlb[k] := dif_pos hk

theorem State.tlbAt_setTlb {j : BitVec 6} {e : TlbEntry} (h : t.tlb = setTlb s.tlb j e) :
    t.tlbAt k = if k = j.toNat then e else s.tlbAt k := by
  simp only [State.tlbAt_of_lt hk, h, setTlb, Vector.getElem_set, eq_comm]

theorem State.tlbAt_cleared (h : t.tlb = s.tlbCleared) :
    t.tlbAt k = if 1 ≤ k ∧ k < s.params.tlbSize then { hi := 0#32, lo := 0#32 } else s.tlbAt k := by
  simp [State.tlbAt_of_lt hk, h, State.tlbCleared]

end

theorem State.tlbHas_iff (s : State) (k : BitVec 6) : s.tlbHas k = true ↔ k.toNat < s.params.tlbSize :=
  decide_eq_true_iff

/-! ### The probe (R285) -/

theorem getLsbD_probeMask : ∀ i : Nat, i < 32 →
    (0x80003F00#32).getLsbD i = decide (i = 31 ∨ 8 ≤ i ∧ i ≤ 13) := by decide

/-- A slot number put into TLB-Index, P clear. -/
theorem probeIndex_found (old : Word) {k : Nat} (hk : k < 64) :
    bitAt (mergeBits 0x80003F00#32 (BitVec.ofNat 32 k <<< 8) old) 31 = false
      ∧ ((mergeBits 0x80003F00#32 (BitVec.ofNat 32 k <<< 8) old).extractLsb' 8 6).toNat = k := by
  have hfield : (mergeBits 0x80003F00#32 (BitVec.ofNat 32 k <<< 8) old).extractLsb' 8 6
      = (BitVec.ofNat 32 k <<< 8).extractLsb' 8 6 := by
    apply BitVec.eq_of_getLsbD_eq
    intro i hi
    rw [BitVec.getLsbD_extractLsb', BitVec.getLsbD_extractLsb', getLsbD_mergeBits, getLsbD_probeMask _ (by omega),
      if_pos (by simp; omega)]
  refine ⟨?_, by rw [hfield, toNat_tlbIndex_shiftLeft hk]⟩
  rw [bitAt, getLsbD_mergeBits, if_pos (by decide), BitVec.getLsbD_shiftLeft, BitVec.getLsbD_ofNat,
    Nat.testBit_lt_two_pow (by omega)]
  simp

/-- A failed probe sets P, whatever TLB-Index is. -/
theorem probeIndex_missed (old index : Word) :
    bitAt (mergeBits 0x80003F00#32 (0x80000000#32 ||| index) old) 31 = true := by
  rw [bitAt, getLsbD_mergeBits, if_pos (by decide), BitVec.getLsbD_or]
  rfl

theorem State.probed_some {s : State} {k : Nat} (h : s.tlbLookup (pageOf s.entryHi) = some k) :
    s.probed = mergeBits 0x80003F00#32 (BitVec.ofNat 32 k <<< 8) s.index := by
  rw [State.probed, h]

theorem State.bitAt_probed_none {s : State} (h : s.tlbLookup (pageOf s.entryHi) = none) :
    bitAt s.probed 31 = true := by
  rw [State.probed, h]
  exact probeIndex_missed _ _

/-! ### The ends of the instructions -/

/-- The end of an instruction that changes the TLB alone. -/
theorem proceed_tlb (s : State) (v : Vector TlbEntry 64) :
    ∃ t, proceed { s with tlb := v } = .next t ∧ KeepsRegs s t ∧ SameMemory s t
      ∧ SameSystem { s with tlb := t.tlb } t ∧ t.tlb = v := by
  obtain ⟨t, ht, hregs, hmem, hsystem⟩ := proceed_spec { s with tlb := v }
  have htlb : t.tlb = v := hsystem.tlb
  exact ⟨t, ht, hregs, hmem, htlb ▸ hsystem, htlb⟩

/-- The end of one that changes EntryHi and EntryLo alone. -/
theorem proceed_entry (s : State) (hi lo : Word) :
    ∃ t, proceed { s with entryHi := hi, entryLo := lo } = .next t ∧ KeepsRegs s t ∧ SameMemory s t
      ∧ SameSystem { s with entryHi := t.entryHi, entryLo := t.entryLo } t ∧ t.entryHi = hi ∧ t.entryLo = lo := by
  obtain ⟨t, ht, hregs, hmem, hsystem⟩ := proceed_spec { s with entryHi := hi, entryLo := lo }
  have hentryHi : t.entryHi = hi := hsystem.entryHi
  have hentryLo : t.entryLo = lo := hsystem.entryLo
  exact ⟨t, ht, hregs, hmem, by rw [hentryHi, hentryLo]; exact hsystem, hentryHi, hentryLo⟩

/-- The end of one that changes Index alone. -/
theorem proceed_index (s : State) (v : Word) :
    ∃ t, proceed { s with index := v } = .next t ∧ KeepsRegs s t ∧ SameMemory s t
      ∧ SameSystem { s with index := t.index } t ∧ t.index = v := by
  obtain ⟨t, ht, hregs, hmem, hsystem⟩ := proceed_spec { s with index := v }
  have hindex : t.index = v := hsystem.index
  exact ⟨t, ht, hregs, hmem, hindex ▸ hsystem, hindex⟩

/-- The clocks and devices of an instruction that goes on from `u`, where only CP0 differs from `s`. -/
theorem SameSystem.sameOutside {s u t : State} (h : SameSystem u t) (hu : SameOutside s u) : SameOutside s t :=
  ⟨h.params.trans hu.params, h.tod.trans hu.tod, h.timer.trans hu.timer, h.timerPending.trans hu.timerPending,
    h.disks.trans hu.disks, h.tapes.trans hu.tapes, h.printers.trans hu.printers, h.terminals.trans hu.terminals,
    h.ended.trans hu.ended, h.inputs.trans hu.inputs, h.draws.trans hu.draws⟩

theorem State.returnFromException_sameOutside (s : State) : SameOutside s s.returnFromException := by
  constructor <;> rfl

theorem State.cp0Written_sameOutside (s : State) (rd : RegIdx) (v : Word) : SameOutside s (s.cp0Written rd v) := by
  constructor <;> rfl

section
variable {s : State} (hu : s.cop0Usable = true)
include hu

theorem exec_rfe : exec .rfe s = proceed s.returnFromException := ifCop0Usable_pos s _ hu

theorem exec_mfc0_of_read {rd : RegIdx} {v : Word} (h : s.cp0Read rd = some v) (rt : RegIdx) :
    exec (.mfc0 rt rd) s = finishLoad s rt id (.ok v) := by
  refine (ifCop0Usable_pos s _ hu).trans ?_
  rw [h]
  rfl

theorem exec_mfc0_refused {rd : RegIdx} (h : s.cp0Read rd = none) (rt : RegIdx) :
    exec (.mfc0 rt rd) s = .refused .noSuchCp0Register := by
  refine (ifCop0Usable_pos s _ hu).trans ?_
  rw [h]

theorem exec_mtc0_of_write {u : State} {rt rd : RegIdx} (h : s.cp0Write rd (s.rt rt) = some u) :
    exec (.mtc0 rt rd) s = proceed u := by
  refine (ifCop0Usable_pos s _ hu).trans ?_
  rw [h]

theorem exec_mtc0_refused {rt rd : RegIdx} (h : s.cp0Write rd (s.rt rt) = none) :
    exec (.mtc0 rt rd) s = .refused .noSuchCp0Register := by
  refine (ifCop0Usable_pos s _ hu).trans ?_
  rw [h]

theorem exec_tlbwi_of_lt (h : s.indexIndex.toNat < s.params.tlbSize) :
    exec .tlbwi s = proceed { s with tlb := setTlb s.tlb s.indexIndex s.entryPair } :=
  (ifCop0Usable_pos s _ hu).trans (if_pos ((s.tlbHas_iff _).2 h))

theorem exec_tlbwi_refused (h : s.params.tlbSize ≤ s.indexIndex.toNat) :
    exec .tlbwi s = .refused .tlbIndexOutOfRange :=
  (ifCop0Usable_pos s _ hu).trans (if_neg (mt (s.tlbHas_iff _).1 (Nat.not_lt.2 h)))

theorem exec_tlbwr : exec .tlbwr s = proceed { s with tlb := setTlb s.tlb s.randomIndex s.entryPair } :=
  ifCop0Usable_pos s _ hu

theorem exec_tlbr_of_lt (h : s.indexIndex.toNat < s.params.tlbSize) :
    exec .tlbr s = proceed { s with entryHi := (s.tlbAt s.indexIndex.toNat).hi,
                                    entryLo := (s.tlbAt s.indexIndex.toNat).lo } :=
  (ifCop0Usable_pos s _ hu).trans (if_pos ((s.tlbHas_iff _).2 h))

theorem exec_tlbr_refused (h : s.params.tlbSize ≤ s.indexIndex.toNat) :
    exec .tlbr s = .refused .tlbIndexOutOfRange :=
  (ifCop0Usable_pos s _ hu).trans (if_neg (mt (s.tlbHas_iff _).1 (Nat.not_lt.2 h)))

theorem exec_tlbclr : exec .tlbclr s = proceed { s with tlb := s.tlbCleared } := ifCop0Usable_pos s _ hu

theorem exec_tlbp : exec .tlbp s = proceed { s with index := s.probed } := ifCop0Usable_pos s _ hu

end

end Sys2Proof.Machine
end

section
/-! SUPPORT. What code without coprocessor 0 can change of the state that confines it: Status, by an exception entry,
and nothing of EntryLo, Index and the TLB (R272, R375, R376). -/

namespace Sys2Proof.Machine

/-- The four vectors (R354). -/
def exceptionVectors : List Word := [0x1FC00180#32, 0x00000080#32, 0x1FC00100#32, 0x00000000#32]

theorem vectorOf_mem (bev : Bool) (e : Exc) : vectorOf bev e ∈ exceptionVectors := by
  unfold vectorOf
  split <;> decide

/-- Status is as it was or pushed at a vector; EntryLo, Index and the TLB are the same. -/
structure Confined (s t : State) : Prop where
  status : t.status = s.status ∨ (Pushed s.status t.status ∧ t.pc ∈ exceptionVectors)
  entryLo : t.entryLo = s.entryLo
  index : t.index = s.index
  tlb : t.tlb = s.tlb

theorem Confined.entry (s : State) (e : Exc) : Confined s (s.takeException e).commitLoad :=
  ⟨.inr ⟨pushed_pushStacks s.status, vectorOf_mem s.bev e⟩, rfl, rfl, rfl⟩

/-- The end of an instruction that changes nothing of CP0. -/
theorem SameCpu.confined {s u : State} (h : SameCpu s u) (e : Retire) : Confined s (u.retire e) :=
  ⟨.inl h.status, h.entryLo, h.index, h.tlb⟩

/-- Without coprocessor 0 an instruction traps or leaves CP0 alone. -/
theorem Effect.confined {s t : State} (h : Effect s t) (hu : s.cop0Usable = false) : Confined s t := by
  cases h with
  | entry e => exact .entry s e
  | registers hi lo e => exact ⟨.inl rfl, rfl, rfl, rfl⟩
  | store hw => exact (State.memWrite_frame hw).confined {}
  | storeAround hw => exact (State.writeAround_frame hw).confined {}
  | cp0 husable | tlb husable | tlbRead husable | probe husable | rfe husable => simp [hu] at husable

/-- No ROM routine is entered in user-mode (R300). -/
theorem romStep_userMode {s : State} (huser : s.userMode = true) : romStep s = .refused .romCodeNotDescribed := by
  have hresumes : s.forkResumes = false := by simp [State.forkResumes, huser]
  have hentry : s.romEntry = false := by simp [State.romEntry, huser]
  simp [romStep, hresumes, hentry]

theorem Turn.confined {s t : State} (h : Turn s t) (huser : s.userMode = true) (hu : s.cop0Usable = false) :
    Confined s t := by
  cases h with
  | ended _ => exact ⟨.inl rfl, rfl, rfl, rfl⟩
  | entry e => exact .entry s e
  | instruction he => exact he.confined hu
  | rom _ hr => rw [romStep_userMode huser] at hr; cases hr

/-! ### The agents -/

theorem State.agents_status (s : State) : s.agents.status = s.status := by
  rw [State.agents_eq, State.tick_status]; exact s.devicesTick_frame.status

theorem State.agents_entryLo (s : State) : s.agents.entryLo = s.entryLo := by
  rw [State.agents_eq, State.tick_entryLo]; exact s.devicesTick_frame.entryLo

theorem State.agents_index (s : State) : s.agents.index = s.index := by
  rw [State.agents_eq, State.tick_index]; exact s.devicesTick_frame.index

theorem State.agents_tlb (s : State) : s.agents.tlb = s.tlb := by
  rw [State.agents_eq, State.tick_tlb]; exact s.devicesTick_frame.tlb

/-- The agents change nothing of what confines. -/
theorem Confined.of_agents {s t : State} (h : Confined s.agents t) : Confined s t := by
  obtain ⟨hstatus, hentryLo, hindex, htlb⟩ := h
  rw [s.agents_status] at hstatus
  exact ⟨hstatus, hentryLo.trans s.agents_entryLo, hindex.trans s.agents_index, htlb.trans s.agents_tlb⟩

end Sys2Proof.Machine
end

section
/-! SUPPORT. The statements of 44_system.md. -/

namespace Sys2Proof.Machine

/-- Settles O33: both raise an exception without an address. -/
theorem syscallAndBreakEnter : Obligations.SyscallAndBreakEnter := by
  unfold Obligations.SyscallAndBreakEnter
  intro s code
  exact ⟨raise_plain s .sys rfl rfl rfl, raise_plain s .bp rfl rfl rfl⟩

/-- Settles O34: the words of coprocessor `z` all raise its exception. -/
theorem otherCoprocessorsTrap : Obligations.OtherCoprocessorsTrap := by
  unfold Obligations.OtherCoprocessorsTrap
  intro s a
  simp only [List.mem_cons, List.not_mem_nil, or_false]
  refine ⟨?_, ?_, ?_⟩ <;> rintro i (rfl | rfl | rfl)
  exacts [raise_cpu s 1#2, raise_cpu s 1#2, raise_cpu s 1#2, raise_cpu s 2#2, raise_cpu s 2#2, raise_cpu s 2#2,
    raise_cpu s 3#2, raise_cpu s 3#2, raise_cpu s 3#2]

/-- Settles O35: the usability test precedes all else in each of the eight. -/
theorem privilegedInstructionsTrap : Obligations.PrivilegedInstructionsTrap := by
  unfold Obligations.PrivilegedInstructionsTrap
  intro s rt rd huser hcu i hi
  have hunusable := State.cop0Usable_eq_false huser hcu
  simp only [List.mem_cons, List.not_mem_nil, or_false] at hi
  obtain rfl | rfl | rfl | rfl | rfl | rfl | rfl | rfl := hi <;> exact ifCop0Usable_enters hunusable _

/-- Settles O38: the pop is the one change of the state the instruction goes on from. -/
theorem rfePopsStacks : Obligations.RfePopsStacks := by
  unfold Obligations.RfePopsStacks
  refine ⟨fun tc => decode_cop0Word (funct := 0x10#6) rfl, fun s => ⟨fun hu => ?_, fun hu => ifCop0Usable_enters hu _⟩⟩
  obtain ⟨t, ht, hregs, hmem, hsystem⟩ := proceed_spec s.returnFromException
  have hpopped : Popped s.status t.status := by rw [hsystem.status]; exact popped_popStacks s.status
  exact ⟨t, (exec_rfe hu).trans ht, hpopped, hregs, hmem, hsystem.sameOutside s.returnFromException_sameOutside,
    hsystem.index, hsystem.random, hsystem.entryLo, hsystem.badVAddr, hsystem.entryHi, hsystem.cause,
    hsystem.epc, hsystem.tlb⟩

/-- Settles O39: a register that reads ends as a load does, the other numbers read nothing. -/
theorem mfc0Reads : Obligations.Mfc0Reads := by
  unfold Obligations.Mfc0Reads
  intro s rt rd v hu
  refine ⟨fun hmem => ?_, fun hrd => exec_mfc0_refused hu (s.cp0Read_eq_none hrd) rt⟩
  rw [exec_mfc0_of_read hu (State.cp0Read_of_mem hmem) rt]
  exact finishLoad_spec s rt id v

/-- Settles O40: `State.cp0Written` says what each register becomes, its bits follow field by field. -/
theorem mtc0Writes : Obligations.Mtc0Writes := by
  unfold Obligations.Mtc0Writes
  intro s rt rd hu
  refine ⟨fun hrd => exec_mtc0_refused hu (s.cp0Write_eq_none _ hrd), fun hrd => ?_⟩
  obtain ⟨t, ht, hregs, hmem, hsystem⟩ := proceed_spec (s.cp0Written rd (s.rt rt))
  refine ⟨t, (exec_mtc0_of_write hu (s.cp0Write_of_mem _ hrd)).trans ht, hregs, hmem,
    hsystem.sameOutside (s.cp0Written_sameOutside rd _), hsystem.random, hsystem.badVAddr, hsystem.epc, hsystem.tlb,
    fun i hi => ?_, fun h => ?_, fun h i hlow hi => ?_, fun h => ?_, fun h i hlow hi => ?_, fun h => ?_, fun h => ?_,
    fun i hi => ?_⟩
  · rw [hsystem.index]; exact s.bitAt_cp0Written_index _ rd hi
  · exact hsystem.entryLo.trans (if_neg h)
  · rw [hsystem.entryLo.trans (if_pos h)]; exact s.bitAt_entryLoWritten _ hlow hi
  · exact hsystem.entryHi.trans (if_neg h)
  · rw [hsystem.entryHi.trans (if_pos h)]; exact s.bitAt_entryHiWritten _ hlow hi
  · exact hsystem.status.trans (if_neg h)
  · rw [hsystem.status.trans (if_pos h)]
    exact ⟨fun i hi => s.bitAt_statusWritten _ hi, s.bitAt_statusWritten_cu _ (by omega) (by omega),
      s.bitAt_statusWritten_cu _ (by omega) (by omega), s.bitAt_statusWritten_cu _ (by omega) (by omega)⟩
  · rw [hsystem.cause]; exact s.bitAt_cp0Written_cause _ rd hi

/-- Settles O41: the TLB after each is `setTlb`, whose slots `State.tlbAt_setTlb` gives. -/
theorem tlbWrites : Obligations.TlbWrites := by
  unfold Obligations.TlbWrites
  intro s hu
  refine ⟨fun hlt => ?_, exec_tlbwi_refused hu, ?_⟩
  · rw [exec_tlbwi_of_lt hu hlt]
    obtain ⟨t, ht, hregs, hmem, hsystem, htlb⟩ := proceed_tlb s (setTlb s.tlb s.indexIndex s.entryPair)
    exact ⟨t, ht, hregs, hmem, hsystem, fun k hk => State.tlbAt_setTlb hk htlb⟩
  · rw [exec_tlbwr hu]
    obtain ⟨t, ht, hregs, hmem, hsystem, htlb⟩ := proceed_tlb s (setTlb s.tlb s.randomIndex s.entryPair)
    exact ⟨t, ht, hregs, hmem, hsystem, fun k hk => State.tlbAt_setTlb hk htlb⟩

/-- Settles O42: TLBR changes the two registers alone, TLBCLR the TLB alone, slot by slot. -/
theorem tlbReadAndClear : Obligations.TlbReadAndClear := by
  unfold Obligations.TlbReadAndClear
  intro s hu
  refine ⟨fun hlt => ?_, exec_tlbr_refused hu, ?_⟩
  · rw [exec_tlbr_of_lt hu hlt]
    exact proceed_entry s _ _
  · rw [exec_tlbclr hu]
    obtain ⟨t, ht, hregs, hmem, hsystem, htlb⟩ := proceed_tlb s s.tlbCleared
    refine ⟨t, ht, hregs, hmem, hsystem, ?_, fun k hlow hlt hk => ?_⟩
    · rw [State.tlbAt_cleared (by omega) htlb, if_neg (by omega)]
    · rw [State.tlbAt_cleared hk htlb, if_pos ⟨hlow, hlt⟩]

/-- Settles O43: the slot found is below TLBSIZE, so TLB-Index holds it. -/
theorem tlbProbe : Obligations.TlbProbe := by
  unfold Obligations.TlbProbe
  intro s hu hwf
  rw [exec_tlbp hu]
  obtain ⟨t, ht, hregs, hmem, hsystem, hindex⟩ := proceed_index s s.probed
  refine ⟨t, ht, hregs, hmem, hsystem, fun k hfound => ?_, fun hmissed => ?_⟩
  · have hslot : k < s.params.tlbSize := (State.tlbFind_some.1 hfound).1
    have hsize := Params.wf_tlbSize hwf
    rw [hindex, State.probed_some hfound]
    exact probeIndex_found s.index (by omega)
  · rw [hindex]
    exact State.bitAt_probed_none hmissed

/-- Settles O58: the agents leave the mode and what confines it, and no turn from there does more than an entry. -/
theorem userModeIsConfined : Obligations.UserModeIsConfined := by
  unfold Obligations.UserModeIsConfined
  intro s t hquiet huser hcu hstep
  obtain ⟨_, hturn⟩ := step_turn_quiet hquiet hstep
  rw [← s.agents_status] at huser hcu
  obtain ⟨hstatus, hentryLo, hindex, htlb⟩ := (hturn.confined huser (State.cop0Usable_eq_false huser hcu)).of_agents
  exact ⟨hstatus, hentryLo, hindex, htlb⟩

end Sys2Proof.Machine
end

section
/-! SUPPORT. The processor state in memory (R302 to R304): what storing one leaves there, what loading one takes from
there, and passing an exception up, which does both (R305). -/

namespace Sys2Proof.Machine

/-! ### Runs of stored words -/

/-- The bytes outside a run of stored words. -/
theorem Memory.read_storeWords_outside (be : Bool) : ∀ (ws : List Word) {a b : Nat} (m : Memory),
    b < a ∨ a + 4 * ws.length ≤ b → (storeWords be ws a m).read b = m.read b
  | [], _, _, _, _ => rfl
  | w :: rest, a, b, m, h => by
    rw [List.length_cons] at h
    rw [storeWords, Memory.read_storeWords_outside be rest _ (by omega), Memory.read_writeWord, if_neg (by omega)]

theorem Memory.readWord_storeWords_outside (be : Bool) (ws : List Word) {a b : Nat} (m : Memory)
    (h : b + 4 ≤ a ∨ a + 4 * ws.length ≤ b) : (storeWords be ws a m).readWord be b = m.readWord be b := by
  have same (j : Nat) (hj : j < 4) : (storeWords be ws a m).read (b + j) = m.read (b + j) :=
    Memory.read_storeWords_outside be ws m (by omega)
  rw [Memory.readWord, same 1 (by omega), same 2 (by omega), same 3 (by omega)]
  exact congrArg (wordOfBytes be · _ _ _) (same 0 (by omega))

/-- Each word of the run is where it was stored: the words after it leave it alone. -/
theorem Memory.readWord_storeWords (be : Bool) : ∀ {ws : List Word} {i : Nat} {w : Word} (a : Nat) (m : Memory),
    ws[i]? = some w → (storeWords be ws a m).readWord be (a + 4 * i) = w
  | v :: rest, 0, w, a, m, h => by
    obtain rfl : v = w := by simpa using h
    rw [storeWords, Memory.readWord_storeWords_outside be rest _ (by omega)]
    exact m.readWord_writeWord be a v
  | v :: rest, i + 1, w, a, m, h => by
    rw [storeWords, show a + 4 * (i + 1) = a + 4 + 4 * i by omega]
    exact Memory.readWord_storeWords be (a + 4) _ (by simpa using h)

/-! ### The state areas (R303, D14) -/

theorem disjointAreas_iff (l : List Nat) : disjointAreas l = true ↔
    l.Pairwise fun a b => a + 140 ≤ b ∨ b + 140 ≤ a := by
  induction l with
  | nil => simp [disjointAreas]
  | cons a rest ih =>
    rw [disjointAreas, Bool.and_eq_true, ih, List.pairwise_cons]
    simp only [List.all_eq_true, Bool.or_eq_true, decide_eq_true_eq]
    rfl

section
variable {p : Params} (hwf : p.wf = true)
include hwf

theorem Params.wf_areas : p.areas.wf = true := by
  simp only [Params.wf, Bool.and_eq_true] at hwf
  obtain ⟨⟨⟨_, hareas⟩, _⟩, _⟩ := hwf
  exact hareas

/-- A state area ends within the ROM Reserved Frame. -/
theorem Params.wf_area_end {a : Word} (ha : a ∈ p.areas.list) : a.toNat + 140 ≤ 0x20000500 := by
  have hareas := Params.wf_areas hwf
  rw [StateAreas.wf, Bool.and_eq_true, List.all_eq_true] at hareas
  have harea := hareas.1 a ha
  simp only [Bool.and_eq_true, decide_eq_true_eq] at harea
  exact harea.2

theorem Params.wf_areas_pairwise :
    (p.areas.list.map BitVec.toNat).Pairwise fun a b => a + 140 ≤ b ∨ b + 140 ≤ a := by
  have hareas := Params.wf_areas hwf
  rw [StateAreas.wf, Bool.and_eq_true] at hareas
  exact (disjointAreas_iff _).1 hareas.2

theorem Params.wf_sysBp_disjoint :
    p.areas.sysBpOld.toNat + 140 ≤ p.areas.sysBpNew.toNat ∨ p.areas.sysBpNew.toNat + 140 ≤ p.areas.sysBpOld.toNat := by
  have hpairs := Params.wf_areas_pairwise hwf
  exact List.pairwise_iff_getElem.1 hpairs 6 7 (by simp [StateAreas.list]) (by simp [StateAreas.list]) (by omega)

/-- The least RAM there is holds the ROM Reserved Frame (R7). -/
theorem Params.wf_ramSize_ge : 4096 ≤ p.ramSize := by
  simp only [Params.wf, Bool.and_eq_true, decide_eq_true_eq] at hwf
  omega

/-- The ROM Reserved Frame is RAM. -/
theorem regionOf_reservedFrame {pa : Word} (hlow : 0x20000000 ≤ pa.toNat) (hhigh : pa.toNat + 4 ≤ 0x20001000) :
    regionOf p pa 4 = .ram := by
  have hsizes := Params.wf_sizes hwf
  have hram := Params.wf_ramSize_ge hwf
  rw [regionOf_eq, if_neg (by omega), if_neg (by omega), if_neg (by omega), if_pos (by omega)]

end

/-- The words of a state area are its bytes in RAM. -/
theorem State.stateWord_area {s : State} (hwf : s.params.wf = true) {a : Word} (ha : a ∈ s.params.areas.list)
    {i : Nat} (hi : i < 35) : s.stateWord a i = s.mem.readWord s.params.bigEndian (a.toNat + 4 * i) := by
  have hbase := Params.wf_area_base hwf ha
  have hend := Params.wf_area_end hwf ha
  have haddr : (a + BitVec.ofNat 32 (4 * i)).toNat = a.toNat + 4 * i := by
    rw [BitVec.toNat_add, BitVec.toNat_ofNat]
    omega
  have hregion : regionOf s.params (a + BitVec.ofNat 32 (4 * i)) 4 = .ram :=
    regionOf_reservedFrame hwf (by omega) (by omega)
  rw [State.stateWord, State.physWord, hregion, haddr]

/-! ### The stored state (R302) -/

/-- The registers a processor state holds, in the order of their words: all but $0, $k0 and $k1 (R302). -/
def stateRegs : List RegIdx := ststRegs.tail

theorem State.stateWords_eq (s : State) (cause : Word) : s.stateWords cause =
    [s.entryHi, cause, s.status, s.epc] ++ stateRegs.map s.reg ++ [s.hi, s.lo] := rfl

theorem State.stateWords_length (s : State) (cause : Word) : (s.stateWords cause).length = 35 := rfl

/-- Where in a processor state a register is. -/
theorem stateRegs_getElem? : ∀ r : RegIdx, r ∉ [0#5, 26#5, 27#5] →
    4 ≤ stateWordOf r.toNat ∧ stateRegs[stateWordOf r.toNat - 4]? = some r := by decide

theorem stateWordOf_lt : ∀ r : RegIdx, stateWordOf r.toNat < 35 := by decide

theorem State.stateWords_reg (s : State) (cause : Word) {r : RegIdx} (hr : r ∉ [0#5, 26#5, 27#5]) :
    (s.stateWords cause)[stateWordOf r.toNat]? = some (s.reg r) := by
  obtain ⟨hfour, hget⟩ := stateRegs_getElem? r hr
  have hlt : stateWordOf r.toNat - 4 < stateRegs.length := (List.getElem?_eq_some_iff.1 hget).1
  rw [State.stateWords_eq, List.append_assoc, List.getElem?_append_right hfour,
    List.getElem?_append_left (by simpa using hlt), List.getElem?_map]
  exact congrArg (Option.map s.reg) hget

/-- The words of a processor state that hold no general register. -/
theorem State.stateWords_special (s : State) (cause : Word) : ∀ p ∈
    [(0, s.entryHi), (1, cause), (2, s.status), (3, s.epc), (33, s.hi), (34, s.lo)],
    (s.stateWords cause)[p.1]? = some p.2 := by
  simp only [List.forall_mem_cons]
  exact ⟨rfl, rfl, rfl, rfl, rfl, rfl, List.forall_mem_nil _⟩

/-! ### The loaded state (R304) -/

section
variable (s : State) (a : Word)

@[simp] theorem State.loadState_pc : (s.loadState a).pc = s.stateWord a 3 := rfl
@[simp] theorem State.loadState_npc : (s.loadState a).npc = s.stateWord a 3 + 4#32 := rfl
@[simp] theorem State.loadState_inslot : (s.loadState a).inslot = false := rfl
@[simp] theorem State.loadState_gpr : (s.loadState a).gpr = s.loadedRegs a isKernelReg := rfl
@[simp] theorem State.loadState_hi : (s.loadState a).hi = s.stateWord a 33 := rfl
@[simp] theorem State.loadState_lo : (s.loadState a).lo = s.stateWord a 34 := rfl
@[simp] theorem State.loadState_entryHi : (s.loadState a).entryHi = s.entryHiWritten (s.stateWord a 0) := rfl
@[simp] theorem State.loadState_cause : (s.loadState a).cause = causeWritten s.cause (s.stateWord a 1) := rfl
@[simp] theorem State.loadState_status :
    (s.loadState a).status = popStacks (s.statusWritten (s.stateWord a 2)) := rfl

/-- A register a state load leaves neither as it was nor open has its word. -/
theorem State.regOf_loadedRegs (isOpen : Nat → Bool) {r : RegIdx} (hr : r ≠ 0#5) (hopen : isOpen r.toNat = false) :
    regOf (s.loadedRegs a isOpen) r = s.stateWord a (stateWordOf r.toNat) := by
  have hpos : r.toNat ≠ 0 := fun h => hr (BitVec.eq_of_toNat_eq h)
  rw [regOf, if_neg hr, State.loadedRegs, Vector.getElem_ofFn, if_neg hpos, if_neg (by simp [hopen])]

end

theorem isKernelReg_eq_false : ∀ r : RegIdx, r ∉ [0#5, 26#5, 27#5] → isKernelReg r.toNat = false := by decide

theorem State.loadState_reg (s : State) (a : Word) {r : RegIdx} (hr : r ∉ [0#5, 26#5, 27#5]) :
    (s.loadState a).reg r = s.stateWord a (stateWordOf r.toNat) := by
  rw [State.reg_eq, State.loadState_gpr]
  exact s.regOf_loadedRegs a _ (fun h => hr (by simp [h])) (isKernelReg_eq_false r hr)

theorem bitAt_causeWritten (c v : Word) {i : Nat} (hi : i < 32) :
    bitAt (causeWritten c v) i = if i = 8 ∨ i = 9 then bitAt v i else bitAt c i := by
  simp [bitAt, causeWritten, getLsbD_mergeBits, getLsbD_softwareLinesMask i hi]

/-- EntryHi after a software write, its named fields. -/
theorem State.entryHiWritten_named (s : State) (v : Word) :
    (s.entryHiWritten v).extractLsb' 6 26 = v.extractLsb' 6 26 := by
  apply BitVec.eq_of_getLsbD_eq
  intro i hi
  rw [BitVec.getLsbD_extractLsb', BitVec.getLsbD_extractLsb']
  exact congrArg (decide (i < 26) && ·) (s.bitAt_entryHiWritten v (i := 6 + i) (by omega) (by omega))

/-! ### Passing up (R305) -/

theorem State.passUp_mem (s : State) (old new : Word) : (s.passUp old new).mem =
    storeWords s.params.bigEndian (s.stateWords s.causeRead) old.toNat s.mem := State.loadState_mem _ _

/-- No byte changes but those of the Old Area. -/
theorem State.passUp_read_outside (s : State) (old new : Word) {a : Nat} (h : a < old.toNat ∨ old.toNat + 140 ≤ a) :
    (s.passUp old new).mem.read a = s.mem.read a := by
  rw [State.passUp_mem]
  exact Memory.read_storeWords_outside _ _ _ (by rw [State.stateWords_length]; exact h)

/-- The Old Area holds the processor state. -/
theorem State.passUp_readWord_old (s : State) (old new : Word) {i : Nat} {w : Word}
    (h : (s.stateWords s.causeRead)[i]? = some w) :
    (s.passUp old new).mem.readWord s.params.bigEndian (old.toNat + 4 * i) = w := by
  rw [State.passUp_mem]
  exact Memory.readWord_storeWords _ _ _ h

/-- A New Area apart from where a state is stored has the words it had. -/
theorem State.storeState_stateWord {s : State} (hwf : s.params.wf = true) {old new : Word}
    (hnew : new ∈ s.params.areas.list) (hdisjoint : old.toNat + 140 ≤ new.toNat ∨ new.toNat + 140 ≤ old.toNat)
    (cause : Word) {i : Nat} (hi : i < 35) :
    (s.storeState old cause).stateWord new i = s.mem.readWord s.params.bigEndian (new.toNat + 4 * i) := by
  refine (State.stateWord_area (s := s.storeState old cause) hwf hnew hi).trans ?_
  exact Memory.readWord_storeWords_outside _ _ _ (by rw [State.stateWords_length]; omega)

/-- A SYSCALL is passed up through the SYS/Bp areas. -/
theorem romExcpt_syscall {s : State} (h : s.cause.extractLsb' 2 5 = 8#5) :
    romExcpt s = .next (s.passUp s.params.areas.sysBpOld s.params.areas.sysBpNew) := by
  have hcode : s.excCode = 8#5 := h
  rw [romExcpt, hcode]
  rfl

end Sys2Proof.Machine
end

section
/-! SUPPORT. The step that comes to fetch at a ROM routine's first word (R300). -/

namespace Sys2Proof.Machine

theorem State.agents_pc (s : State) : s.agents.pc = s.pc := by
  rw [State.agents_eq, State.tick_pc]; exact s.devicesTick_frame.pc

theorem State.runAgents_pc : ∀ (n : Nat) (s : State), (State.runAgents n s).pc = s.pc
  | 0, _ => rfl
  | n + 1, s => by rw [State.runAgents, State.runAgents_pc n, State.agents_pc]

/-- FORK's last group is loaded after the first word of the ROM-Excpt handler, where there is such a place. -/
theorem Params.forkResume_toNat {p : Params} (hwf : p.wf = true) (hpauses : p.forkPauses = true) :
    0x84 ≤ p.forkResume.toNat := by
  obtain ⟨hrom, _⟩ := Params.wf_sizes hwf
  have hroom : 0x88 ≤ p.romSize := of_decide_eq_true hpauses
  have hword : Config.freeNat .forkResume 0 % ((p.romSize - 0x84) / 4) < (p.romSize - 0x84) / 4 :=
    Nat.mod_lt _ (by omega)
  rw [Params.forkResume, BitVec.toNat_ofNat, Nat.mod_eq_of_lt (by omega)]
  omega

theorem State.forkResumes_eq_false {s : State} (hwf : s.params.wf = true) (hpc : s.pc.toNat < 0x84) :
    s.forkResumes = false := by
  by_contra h
  simp only [State.forkResumes, Bool.not_eq_false, Bool.and_eq_true, decide_eq_true_eq] at h
  obtain ⟨⟨⟨⟨⟨hpauses, hresume⟩, _⟩, _⟩, _⟩, _⟩ := h
  have hlow := Params.forkResume_toNat hwf hpauses
  rw [← hresume] at hlow
  omega

/-- The step is the routine at the fetched address, after its further cycles and the landing of a pending load. -/
theorem step_romRoutine {r s : State} (h : ReadyToFetch r s) (hc : s.contractFetch = true)
    (hentry : s.romEntry = true) (hresumes : s.forkResumes = false) :
    step r = romRoutine (State.runAgents (Config.freeNat .romCycles s.draws) s).commitLoad := by
  rw [step, h.cycle_eq, fetchStep, if_pos hc, romStep]
  simp [hresumes, hentry]

theorem step_romExcpt {r s : State} (h : ReadyToFetch r s) (hc : s.contractFetch = true)
    (hentry : s.romEntry = true) (hpc : s.pc = 0x00000080#32) :
    step r = romExcpt (State.runAgents (Config.freeNat .romCycles s.draws) s).commitLoad := by
  have ⟨_, hwf, _, _⟩ := h
  have hpc' : (State.runAgents (Config.freeNat .romCycles s.draws) s).commitLoad.pc = 0x00000080#32 := by
    rw [State.commitLoad_pc, State.runAgents_pc, hpc]
  rw [step_romRoutine h hc hentry (State.forkResumes_eq_false hwf (by rw [hpc]; decide)), romRoutine, hpc',
    if_neg (by decide), if_pos rfl]

end Sys2Proof.Machine
end

section
/-! SUPPORT. The ROM-TLB-Refill handler on a valid page table: the search and the refill (R306 to R310). -/

namespace Sys2Proof.Machine

/-! ### The search (R306 to R308) -/

/-- The segment table's column by the two bits of SEGNO (R108). -/
theorem segmentColumn_eq (va : Word) : segmentColumn (va.extractLsb' 30 2) =
    if bitAt va 31 then (if bitAt va 30 then 2 else 1) else 0 := by
  have column : ∀ g : BitVec 2,
      segmentColumn g = if g.getLsbD 1 then (if g.getLsbD 0 then 2 else 1) else 0 := by decide
  rw [column, BitVec.getLsbD_extractLsb', BitVec.getLsbD_extractLsb']
  rfl

/-- A table with the magic number that lies in RAM with all its entries is no Bad-PgTbl. -/
theorem State.badPgTbl_eq_false {s : State} {t : Word} (hlow : 0x20000000 ≤ t.toNat) (haligned : t.toNat % 4 = 0)
    (hmagic : (s.wordAt t 0).extractLsb' 24 8 = 0x2A#8)
    (hhigh : t.toNat + 4 + 8 * ((s.wordAt t 0).extractLsb' 0 20).toNat ≤ s.params.ramTop) :
    s.badPgTbl t = false := by
  simp only [State.badPgTbl, Bool.or_eq_false_iff, decide_eq_false_iff_not]
  exact ⟨⟨⟨⟨by omega, by simp [haligned]⟩, by omega⟩, by simp [hmagic]⟩, by omega⟩

/-- The search answers the first entry that matches. -/
theorem State.searchPgTbl_first {s : State} {t : Word} {page : BitVec 20} {asid : BitVec 6} {j : Nat}
    (hhits : (s.pte t j).hits page asid = true) : ∀ {i n : Nat}, i ≤ j → j < i + n →
    (∀ k, i ≤ k → k < j → ¬ (s.pte t k).hits page asid = true) →
    s.searchPgTbl t page asid i n = some (s.pte t j)
  | i, 0, hij, hjn, _ => by omega
  | i, n + 1, hij, hjn, hfirst => by
    rw [State.searchPgTbl]
    by_cases heq : i = j
    · rw [heq, if_pos hhits]
    · rw [if_neg (hfirst i le_rfl (by omega))]
      exact State.searchPgTbl_first hhits (by omega) (by omega) fun k hk => hfirst k (by omega)

/-- The handler on a valid table with a matching entry (R308). -/
theorem romRefill_found {s : State} {t : Word} {e : TlbEntry}
    (ht : s.pageTable (asidOf s.entryHi) s.badVAddr = t) (hgood : s.badPgTbl t = false)
    (hfound : s.searchPgTbl t (pageOf s.badVAddr) (asidOf s.entryHi) 0 ((s.wordAt t 0).extractLsb' 0 20).toNat = some e) :
    romRefill s = .next (s.refill e) := by
  rw [romRefill, ht, if_neg (by simp [hgood]), hfound]

/-! ### The refill (R310) -/

/-- The slot a refill fills. -/
def State.refillSlot (s : State) : Nat := 1 + Config.freeNat .refillSlot s.draws % (s.params.tlbSize - 1)

theorem State.refillSlot_range {s : State} (hwf : s.params.wf = true) :
    1 ≤ s.refillSlot ∧ s.refillSlot < s.params.tlbSize := by
  have hsize := Params.wf_tlbSize hwf
  have hslot : Config.freeNat .refillSlot s.draws % (s.params.tlbSize - 1) < s.params.tlbSize - 1 :=
    Nat.mod_lt _ (by omega)
  unfold State.refillSlot
  omega

/-- The slot filled holds the entry, every other slot what it held. -/
theorem State.tlbAt_refill {s : State} (hwf : s.params.wf = true) (e : TlbEntry) (i : Nat) :
    (s.refill e).tlbAt i = if i = s.refillSlot then e else s.tlbAt i := by
  have hsize := Params.wf_tlbSize hwf
  have hslot := State.refillSlot_range hwf
  have hnat : (BitVec.ofNat 6 s.refillSlot).toNat = s.refillSlot := by
    rw [BitVec.toNat_ofNat, Nat.mod_eq_of_lt (by omega)]
  by_cases hi : i < 64
  · rw [State.tlbAt_setTlb (s := s) hi (j := BitVec.ofNat 6 s.refillSlot) (e := e) rfl, hnat]
  · rw [if_neg (by omega), State.tlbAt, State.tlbAt, dif_neg hi, dif_neg hi]

theorem getLsbD_asidMask : ∀ i : Nat, i < 32 → (0x00000FC0#32).getLsbD i = decide (6 ≤ i ∧ i < 12) := by decide

/-- EntryHi with its ASID replaced, field by field. -/
theorem mergeBits_asid (new old : Word) : mergeBits 0x00000FC0#32 new old =
    old.extractLsb' 12 20 ++ new.extractLsb' 6 6 ++ old.extractLsb' 0 6 := by
  apply BitVec.eq_of_getLsbD_eq
  intro i hi
  rw [getLsbD_mergeBits, getLsbD_asidMask i hi, BitVec.getLsbD_append, BitVec.getLsbD_append]
  by_cases hlow : i < 6
  · simp [hlow, show ¬ 6 ≤ i by omega]
  · by_cases hmid : i < 12
    · simp [hlow, hmid, show 6 ≤ i by omega, show i - 6 < 6 by omega]
    · simp [hlow, hmid, show ¬ i - 6 < 6 by omega, show i - 6 - 6 < 20 by omega, show 12 + (i - 6 - 6) = i by omega]

/-- The registers after the ROM used $k0 and $k1. -/
theorem State.regOf_kernelRegsOpen (s : State) {r : RegIdx} (h26 : r ≠ 26#5) (h27 : r ≠ 27#5) :
    regOf s.kernelRegsOpen r = s.reg r := by
  have hn26 : (26 : Nat) ≠ r.toNat := fun h => h26 (BitVec.eq_of_toNat_eq h.symm)
  have hn27 : (27 : Nat) ≠ r.toNat := fun h => h27 (BitVec.eq_of_toNat_eq h.symm)
  simp [State.reg_eq, regOf, State.kernelRegsOpen, hn26, hn27]

theorem State.refill_sameOutside (s : State) (e : TlbEntry) : SameOutside s (s.refill e) := by
  constructor <;> rfl

end Sys2Proof.Machine
end

section
/-! SUPPORT. The statements of 45_rom_services.md. -/

namespace Sys2Proof.Machine

/-- Settles O59: the state is stored word by word, and the New Area, apart from the Old, has the words it had. -/
theorem romPassesSyscallUp : Obligations.RomPassesSyscallUp := by
  unfold Obligations.RomPassesSyscallUp
  refine ⟨fun r s => step_romExcpt, ?_⟩
  rintro s old new word hwf hcode rfl rfl hword
  have hnew : s.params.areas.sysBpNew ∈ s.params.areas.list := by simp [StateAreas.list]
  have hload {i : Nat} (hi : i < 35) :
      (s.storeState s.params.areas.sysBpOld s.causeRead).stateWord s.params.areas.sysBpNew i = word i := by
    rw [State.storeState_stateWord hwf hnew (Params.wf_sysBp_disjoint hwf) _ hi, hword]
  refine ⟨_, (s.storeState s.params.areas.sysBpOld s.causeRead).statusWritten (word 2), romExcpt_syscall hcode,
    fun p hp => s.passUp_readWord_old _ _ (s.stateWords_special _ p hp), fun r hr => ⟨?_, ?_⟩,
    fun a => s.passUp_read_outside _ _, hload (by omega), rfl, rfl, hload (by omega), hload (by omega), ?_,
    fun i hi => ?_, fun i => State.bitAt_statusWritten _ _, State.bitAt_statusWritten_cu _ _ (by omega) (by omega),
    State.bitAt_statusWritten_cu _ _ (by omega) (by omega), State.bitAt_statusWritten_cu _ _ (by omega) (by omega), ?_⟩
  · exact s.passUp_readWord_old _ _ (s.stateWords_reg _ hr)
  · rw [State.passUp, State.loadState_reg _ _ hr]
    exact hload (stateWordOf_lt r)
  · rw [State.passUp, State.loadState_entryHi, hload (by omega)]
    exact State.entryHiWritten_named _ _
  · rw [State.passUp, State.loadState_cause, hload (by omega)]
    exact bitAt_causeWritten _ _ hi
  · rw [State.passUp, State.loadState_status, hload (by omega)]
    exact popped_popStacks _

/-- Settles O60: the table is valid, the search stops at entry `j`, and the refill changes what the statement names. -/
theorem romRefillsFromPageTable : Obligations.RomRefillsFromPageTable := by
  unfold Obligations.RomRefillsFromPageTable
  intro s table count j hi lo hwf htable hlow haligned hmagic hcount hhigh hhi hlo matching hmatching hj hmatch hfirst
  obtain ⟨t, ht⟩ : ∃ t, s.pageTable (asidOf s.entryHi) s.badVAddr = t := ⟨_, rfl⟩
  obtain rfl : table = t.toNat := by
    rw [htable, ← ht, State.pageTable, segmentColumn_eq]
    rfl
  have hheader : s.wordAt t 0 = s.mem.readWord s.params.bigEndian t.toNat := rfl
  rw [← hheader] at hmagic hcount
  have hpte (i : Nat) : s.pte t i = { hi := hi i, lo := lo i } := by
    rw [State.pte, State.wordAt, State.wordAt, hhi, hlo, show t.toNat + 4 * (1 + 2 * i) = t.toNat + 4 + 8 * i by omega,
      show t.toNat + 4 * (2 + 2 * i) = t.toNat + 8 + 8 * i by omega]
  have hhits (i : Nat) : (s.pte t i).hits (pageOf s.badVAddr) (asidOf s.entryHi) = true ↔ matching i := by
    rw [hpte, TlbEntry.hits_iff, hmatching]
    rfl
  have hgood : s.badPgTbl t = false := State.badPgTbl_eq_false hlow haligned hmagic (by rw [← hcount]; exact hhigh)
  have hfound := State.searchPgTbl_first ((hhits j).2 hmatch) (i := 0) (n := count) (by omega) (by omega)
    fun k _ hk => mt (hhits k).1 (hfirst k hk)
  rw [hcount] at hfound
  obtain ⟨hone, hslot⟩ := State.refillSlot_range hwf
  refine ⟨_, s.refillSlot, romRefill_found ht hgood hfound, hone, hslot, ?_, fun i hne => ?_, ?_, ?_,
    popped_popStacks s.status, rfl, rfl, rfl, fun r h26 h27 => s.regOf_kernelRegsOpen h26 h27, ⟨rfl, rfl⟩,
    sameMemory_refl _ _ (s.refill_mem _), s.refill_sameOutside _, rfl, rfl, rfl, rfl, rfl⟩
  · rw [State.tlbAt_refill hwf, if_pos rfl, hpte]
  · rw [State.tlbAt_refill hwf, if_neg hne]
  · rw [hpte]
    exact mergeBits_asid _ _
  · rw [hpte]
    rfl

end Sys2Proof.Machine
end

section
/-! SUPPORT. The command protocol of one device register (R396, R398, R429): what a store to COMMAND makes of it, case
by case, and that each operation of the model on a register keeps the protocol. -/

namespace Sys2Proof.Machine

/-! ### Status codes (R401, R427) -/

theorem commandCode_toNat (v : Word) : (commandCode v).toNat = v.toNat % 256 := by
  rw [commandCode, BitVec.extractLsb'_toNat, Nat.shiftRight_zero]

/-- What stands beside a code in a status word: nothing in its low byte. -/
abbrev MarkClear (mark : Word) : Prop := mark.extractLsb' 0 8 = 0#8

theorem markClear_zero : MarkClear 0#32 := by decide

/-- A byte put above the status code leaves the code's own place clear. -/
theorem markClear_shiftLeft (w : Word) : MarkClear (w <<< 8) := by
  apply BitVec.eq_of_getLsbD_eq
  intro i hi
  simp [hi]

theorem markClear_termMark (unit : Nat) (d : DevNo) (draws : Nat) : MarkClear (termMark unit d draws) :=
  markClear_shiftLeft _

/-- The code of a status word put together of a mark and a code. -/
theorem MarkClear.code_or {mark : Word} (h : MarkClear mark) (code : Word) :
    (mark ||| code).extractLsb' 0 8 = code.extractLsb' 0 8 := by
  rw [BitVec.extractLsb'_or, h, BitVec.zero_or]

/-! ### A store to COMMAND, by its code (R396, R398) -/

section
variable {r : DevReg} {last : Nat} {mark : Word} {total stamp : Nat} {v : Word}

theorem DevReg.issue_busy (h : r.busy ≠ none) : r.issue last mark total stamp v = r :=
  if_pos (Option.isSome_iff_ne_none.2 h)

variable (hidle : r.busy = none)
include hidle

/-- ACK and RESET. -/
theorem DevReg.issue_ready (hv : v.toNat % 256 ≤ 1) :
    r.issue last mark total stamp v = { r with command := v, pending := false, status := mark ||| 1#32 } := by
  rw [← commandCode_toNat] at hv
  rw [DevReg.issue, if_neg (by simp [hidle]), if_pos hv]

/-- An operation of the device. -/
theorem DevReg.issue_operation (hlow : 2 ≤ v.toNat % 256) (hhigh : v.toNat % 256 ≤ last) :
    r.issue last mark total stamp v =
      { r with command := v, pending := false, status := mark ||| 3#32,
               busy := some { command := v, data0 := r.data0, elapsed := 0, total := total, stamp := stamp } } := by
  rw [← commandCode_toNat] at hlow hhigh
  rw [DevReg.issue, if_neg (by simp [hidle]), if_neg (by omega), if_pos hhigh]

/-- Any other code. -/
theorem DevReg.issue_illegal (hlast : 1 ≤ last) (hv : last < v.toNat % 256) :
    r.issue last mark total stamp v = { r with command := v, pending := true, status := mark ||| 2#32 } := by
  rw [← commandCode_toNat] at hv
  rw [DevReg.issue, if_neg (by simp [hidle]), if_neg (by omega), if_neg (by omega)]

end

/-! ### The protocol (R396, R429) -/

section
variable {r r' : DevReg}

theorem DevReg.sound_iff (r : DevReg) : r.sound = true ↔
    (r.busy.isSome = true ↔ r.code = 3#8) ∧ (r.busy.isSome = true → r.pending = false) := by
  simp only [DevReg.sound, Bool.and_eq_true, beq_iff_eq, Bool.not_eq_true', Bool.and_eq_false_iff]
  rw [Bool.eq_iff_iff, decide_eq_true_eq, Classical.or_iff_not_imp_left, Bool.not_eq_false]

theorem DevReg.terminalSound_iff (r : DevReg) : r.terminalSound = true ↔
    r.sound = true ∧ (r.busy = none → (r.pending = true ↔ r.code ∈ [2#8, 4#8, 5#8])) := by
  rw [DevReg.terminalSound, Bool.and_eq_true]
  refine and_congr_right fun _ => ?_
  cases r.busy with
  | some b => simp
  | none => cases r.pending <;> simp [or_assoc, and_assoc]

theorem DevReg.sound_of_terminalSound (h : r.terminalSound = true) : r.sound = true := (r.terminalSound_iff.1 h).1

/-- A register with an operation in progress. -/
theorem DevReg.terminalSound_of_busy (hb : r.busy.isSome = true) (hc : r.code = 3#8) (hp : r.pending = false) :
    r.terminalSound = true := by
  refine r.terminalSound_iff.2 ⟨r.sound_iff.2 ⟨iff_of_true hb hc, fun _ => hp⟩, fun hidle => ?_⟩
  rw [hidle] at hb
  cases hb

/-- An idle register. -/
theorem DevReg.sound_of_idle (hb : r.busy = none) (hc : r.code ≠ 3#8) : r.sound = true :=
  r.sound_iff.2 ⟨iff_of_false (by simp [hb]) hc, by simp [hb]⟩

/-- An idle sub-device of a terminal with its interrupt pending. -/
theorem DevReg.terminalSound_of_pending (hb : r.busy = none) (hc : r.code ∈ [2#8, 4#8, 5#8]) (hp : r.pending = true) :
    r.terminalSound = true :=
  have hcode : r.code ≠ 3#8 := fun h => by rw [h] at hc; revert hc; decide
  r.terminalSound_iff.2 ⟨DevReg.sound_of_idle hb hcode, fun _ => iff_of_true hp hc⟩

/-- An idle sub-device of a terminal without an interrupt: Device Ready, or not installed. -/
theorem DevReg.terminalSound_of_quiet (hb : r.busy = none) (hc : r.code ∈ [0#8, 1#8]) (hp : r.pending = false) :
    r.terminalSound = true := by
  have hcode : ∀ c ∈ [0#8, 1#8], c ≠ 3#8 ∧ c ∉ [2#8, 4#8, 5#8] := by decide
  obtain ⟨hbusy, hpending⟩ := hcode _ hc
  exact r.terminalSound_iff.2 ⟨DevReg.sound_of_idle hb hbusy, fun _ => iff_of_false (by simp [hp]) hpending⟩

/-- The protocol speaks of STATUS, the pending bit and whether an operation is in progress. -/
theorem DevReg.protocol_congr (hb : r'.busy.isSome = r.busy.isSome) (hs : r'.status = r.status)
    (hp : r'.pending = r.pending) : r'.sound = r.sound ∧ r'.terminalSound = r.terminalSound := by
  have hcode : r'.code = r.code := congrArg (BitVec.extractLsb' 0 8) hs
  have hsound : r'.sound = r.sound := by rw [DevReg.sound, DevReg.sound, hb, hcode, hp]
  exact ⟨hsound, by rw [DevReg.terminalSound, DevReg.terminalSound, hsound, hb, hcode, hp]⟩

end

/-! ### What keeps the protocol -/

section
variable {r : DevReg}

/-- A store to COMMAND of an idle device leaves a protocol state, whatever it was before. -/
theorem DevReg.issue_terminalSound_of_idle (hidle : r.busy = none) {last : Nat} (hlast : 1 ≤ last) {mark : Word}
    (hmark : MarkClear mark) (total stamp : Nat) (v : Word) : (r.issue last mark total stamp v).terminalSound = true := by
  rcases Nat.lt_or_ge 1 (v.toNat % 256) with hlow | hready
  · rcases Nat.lt_or_ge last (v.toNat % 256) with hillegal | hhigh
    · rw [DevReg.issue_illegal hidle hlast hillegal]
      refine DevReg.terminalSound_of_pending hidle ?_ rfl
      rw [DevReg.code, hmark.code_or]
      decide
    · rw [DevReg.issue_operation hidle hlow hhigh]
      exact DevReg.terminalSound_of_busy rfl (hmark.code_or _) rfl
  · rw [DevReg.issue_ready hidle hready]
    refine DevReg.terminalSound_of_quiet hidle ?_ rfl
    rw [DevReg.code, hmark.code_or]
    decide

theorem DevReg.issue_sound (h : r.sound = true) {last : Nat} (hlast : 1 ≤ last) {mark : Word} (hmark : MarkClear mark)
    (total stamp : Nat) (v : Word) : (r.issue last mark total stamp v).sound = true := by
  by_cases hidle : r.busy = none
  · exact DevReg.sound_of_terminalSound (DevReg.issue_terminalSound_of_idle hidle hlast hmark total stamp v)
  · rwa [DevReg.issue_busy hidle]

theorem DevReg.issue_terminalSound (h : r.terminalSound = true) {last : Nat} (hlast : 1 ≤ last) {mark : Word}
    (hmark : MarkClear mark) (total stamp : Nat) (v : Word) : (r.issue last mark total stamp v).terminalSound = true := by
  by_cases hidle : r.busy = none
  · exact DevReg.issue_terminalSound_of_idle hidle hlast hmark total stamp v
  · rwa [DevReg.issue_busy hidle]

theorem DevReg.issueTape_sound (h : r.sound = true) (total stamp : Nat) (v : Word) :
    (r.issueTape total stamp v).sound = true := by
  obtain ⟨x, hx⟩ := r.issueTape_but_data1 total stamp v
  rw [hx]
  exact DevReg.issue_sound h (by omega) markClear_zero total stamp v

theorem DevReg.setData0_sound (h : r.sound = true) (v : Word) : (r.setData0 v).sound = true := by
  unfold DevReg.setData0
  split <;> exact h

/-- Every completion in a code but Device Busy's. -/
theorem DevReg.complete_sound {status : Word} (h : status.extractLsb' 0 8 ≠ 3#8) (r : DevReg) :
    (r.complete status).sound = true := DevReg.sound_of_idle rfl h

/-- A terminal's completions: Character Received or Transmitted, or an error. -/
theorem DevReg.complete_terminalSound {mark code : Word} (hmark : MarkClear mark)
    (hcode : code.extractLsb' 0 8 ∈ [2#8, 4#8, 5#8]) (r : DevReg) : (r.complete (mark ||| code)).terminalSound = true :=
  DevReg.terminalSound_of_pending rfl (by rwa [← hmark.code_or code] at hcode) rfl

/-- One more step of an operation in progress. -/
theorem DevReg.progress_protocol {b : Busy} (hb : r.busy = some b) (e : Nat) :
    (r.progress b e).sound = r.sound ∧ (r.progress b e).terminalSound = r.terminalSound :=
  DevReg.protocol_congr (by rw [hb]; rfl) rfl rfl

theorem DevReg.reset_terminalSound (installed : Bool) : (DevReg.reset installed).terminalSound = true :=
  DevReg.terminalSound_of_quiet rfl (by cases installed <;> decide) rfl

end

end Sys2Proof.Machine
end

section
/-! SUPPORT. The protocol of R396 and R429 through stores, controllers, the host's actions and the ROM's routines, and
the statement that every step keeps it. -/

namespace Sys2Proof.Machine

/-- What O53 asks of a state, device by device: `State.devicesSound`, and no device edit still to come
(`State.protocol_iff`). -/
structure State.ProtocolSound (s : State) : Prop where
  disks : ∀ d : DevNo, s.disks[d].reg.sound = true
  tapes : ∀ d : DevNo, s.tapes[d].reg.sound = true
  printers : ∀ d : DevNo, s.printers[d].reg.sound = true
  receivers : ∀ d : DevNo, s.terminals[d].recv.terminalSound = true
  transmitters : ∀ d : DevNo, s.terminals[d].transm.terminalSound = true
  noEdits : s.noDeviceEdits = true

theorem State.devicesSound_iff (s : State) : s.devicesSound = true ↔
    (∀ d : DevNo, s.disks[d].reg.sound = true) ∧ (∀ d : DevNo, s.tapes[d].reg.sound = true)
      ∧ (∀ d : DevNo, s.printers[d].reg.sound = true)
      ∧ (∀ d : DevNo, s.terminals[d].recv.terminalSound = true)
      ∧ ∀ d : DevNo, s.terminals[d].transm.terminalSound = true := by
  simp only [State.devicesSound, Bool.and_eq_true, all_bank, forall_and, and_assoc]

theorem State.protocol_iff (s : State) : s.devicesSound = true ∧ s.noDeviceEdits = true ↔ s.ProtocolSound := by
  rw [s.devicesSound_iff]
  exact ⟨fun ⟨⟨hd, ht, hp, hr, hx⟩, hq⟩ => ⟨hd, ht, hp, hr, hx, hq⟩,
    fun ⟨hd, ht, hp, hr, hx, hq⟩ => ⟨⟨hd, ht, hp, hr, hx⟩, hq⟩⟩

/-- The fields the protocol speaks of. -/
def State.protocolFields (s : State) :
    Vector Disk 8 × Vector Tape 8 × Vector Printer 8 × Vector Terminal 8 × List (List HostAct) :=
  (s.disks, s.tapes, s.printers, s.terminals, s.inputs)

theorem State.protocolFields_eq (s : State) :
    s.protocolFields = (s.disks, s.tapes, s.printers, s.terminals, s.inputs) := rfl

namespace State.ProtocolSound

/-- A change of no field the protocol speaks of. -/
theorem congr {s t : State} (h : s.ProtocolSound) (ht : t.protocolFields = s.protocolFields) : t.ProtocolSound := by
  simp only [State.protocolFields, Prod.mk.injEq] at ht
  obtain ⟨hd, hta, hp, hte, hi⟩ := ht
  exact ⟨hd ▸ h.disks, hta ▸ h.tapes, hp ▸ h.printers, hte ▸ h.receivers, hte ▸ h.transmitters,
    by rw [State.noDeviceEdits, hi]; exact h.noEdits⟩

section
variable {s : State} (h : s.ProtocolSound)
include h

/-! ### One device replaced -/

theorem setDisk (d : DevNo) {k : Disk} (hk : k.reg.sound = true) :
    ({ s with disks := setDev s.disks d k } : State).ProtocolSound :=
  ⟨forall_setDev (P := fun k : Disk => k.reg.sound = true) h.disks d hk, h.tapes, h.printers, h.receivers,
    h.transmitters, h.noEdits⟩

theorem setTape (d : DevNo) {k : Tape} (hk : k.reg.sound = true) :
    ({ s with tapes := setDev s.tapes d k } : State).ProtocolSound :=
  ⟨h.disks, forall_setDev (P := fun k : Tape => k.reg.sound = true) h.tapes d hk, h.printers, h.receivers,
    h.transmitters, h.noEdits⟩

theorem setPrinter (d : DevNo) {k : Printer} (hk : k.reg.sound = true) :
    ({ s with printers := setDev s.printers d k } : State).ProtocolSound :=
  ⟨h.disks, h.tapes, forall_setDev (P := fun k : Printer => k.reg.sound = true) h.printers d hk, h.receivers,
    h.transmitters, h.noEdits⟩

theorem setTerminal (d : DevNo) {k : Terminal} (hr : k.recv.terminalSound = true)
    (hx : k.transm.terminalSound = true) : ({ s with terminals := setDev s.terminals d k } : State).ProtocolSound :=
  ⟨h.disks, h.tapes, h.printers, forall_setDev (P := fun k : Terminal => k.recv.terminalSound = true) h.receivers d hr,
    forall_setDev (P := fun k : Terminal => k.transm.terminalSound = true) h.transmitters d hx, h.noEdits⟩

/-! ### Stores to devices -/

theorem writeDisk (d : DevNo) (f : Nat) (v : Word) : (s.writeDisk d f v).ProtocolSound := by
  unfold State.writeDisk
  split
  · exact h.setDisk d (DevReg.issue_sound (h.disks d) (by omega) markClear_zero _ _ v)
  · exact h.setDisk d (DevReg.setData0_sound (h.disks d) v)
  · exact h

theorem writeTape (d : DevNo) (f : Nat) (v : Word) : (s.writeTape d f v).ProtocolSound := by
  unfold State.writeTape
  dsimp only
  split
  · split
    · exact h
    · exact h.setTape d (DevReg.issueTape_sound (h.tapes d) _ _ v)
  · exact h.setTape d (DevReg.setData0_sound (h.tapes d) v)
  · exact h

theorem writePrinter (d : DevNo) (f : Nat) (v : Word) : (s.writePrinter d f v).ProtocolSound := by
  unfold State.writePrinter
  split
  · exact h.setPrinter d (DevReg.issue_sound (h.printers d) (by omega) markClear_zero _ _ v)
  · exact h.setPrinter d (DevReg.setData0_sound (h.printers d) v)
  · exact h

theorem writeTerminal (d : DevNo) (f : Nat) (v : Word) : (s.writeTerminal d f v).ProtocolSound := by
  unfold State.writeTerminal
  split
  · exact h.setTerminal d
      (DevReg.issue_terminalSound (h.receivers d) (by omega) (markClear_termMark _ _ _) _ _ v) (h.transmitters d)
  · exact h.setTerminal d (h.receivers d)
      (DevReg.issue_terminalSound (h.transmitters d) (by omega) (markClear_termMark _ _ _) _ _ v)
  · exact h

theorem writeDevice (line : Nat) (d : DevNo) (f : Nat) (v : Word) : (s.writeDevice line d f v).ProtocolSound := by
  unfold State.writeDevice
  split
  · split
    · exact h.writeDisk d f v
    · exact h
  · split
    · exact h.writeTape d f v
    · exact h
  · split
    · exact h.writePrinter d f v
    · exact h
  · split
    · exact h.writeTerminal d f v
    · exact h
  · exact h

theorem writeBus (n : Nat) (v : Word) : (s.writeBus n v).ProtocolSound := by
  unfold State.writeBus
  split
  · exact h.congr rfl
  · split
    · exact h.writeDevice _ _ _ v
    · exact h

theorem memWrite {t : State} {w : Width} {va v : Word} (ht : s.memWrite w va v = .ok t) : t.ProtocolSound := by
  obtain ⟨_, pa, _, hp⟩ := State.memWrite_ok ht
  obtain ⟨_, rfl⟩ | ⟨_, _, rfl⟩ := State.physWrite_ok hp
  · exact h.congr rfl
  · exact h.writeBus _ v

end

end State.ProtocolSound

/-! ### The controllers -/

theorem setDev_getElem_self {α : Type} (bank : Vector α 8) (d : DevNo) (x : α) : (setDev bank d x)[d] = x := by
  simp [setDev]

/-- A transfer moves bytes of the disk or of RAM, never its registers. -/
theorem State.diskMoves_reg (s : State) (d : DevNo) (b : Busy) (e : Nat) :
    (s.diskMoves d b e).disks[d].reg = s.disks[d].reg := by
  unfold State.diskMoves
  dsimp only
  split
  · rfl
  · split
    · split
      · rfl
      · split
        · rw [setDev_getElem_self]
        · rfl
    · rfl

theorem State.tapeMoves_tapes (s : State) (d : DevNo) (b : Busy) (e : Nat) : (s.tapeMoves d b e).tapes = s.tapes := by
  unfold State.tapeMoves
  dsimp only
  split
  · rfl
  · split <;> rfl

theorem Printer.tick_sound {k : Printer} (h : k.reg.sound = true) (d : DevNo) : (k.tick d).reg.sound = true := by
  unfold Printer.tick
  split
  · exact h
  · rename_i b hb
    dsimp only
    split
    · split <;> exact DevReg.complete_sound (by decide) _
    · exact (DevReg.progress_protocol hb _).1.trans h

theorem Terminal.transmTick_sound {k : Terminal} (h : k.transm.terminalSound = true) (d : DevNo) (draws : Nat) :
    (k.transmTick d draws).transm.terminalSound = true := by
  unfold Terminal.transmTick
  split
  · exact h
  · rename_i b hb
    dsimp only
    split
    · split
      · exact DevReg.complete_terminalSound (markClear_termMark _ _ _) (by decide) _
      · exact DevReg.complete_terminalSound (markClear_shiftLeft _) (by decide) _
    · exact (DevReg.progress_protocol hb _).2.trans h

theorem Terminal.transmTick_recv (k : Terminal) (d : DevNo) (draws : Nat) : (k.transmTick d draws).recv = k.recv := by
  unfold Terminal.transmTick
  dsimp only
  (repeat' split) <;> rfl

theorem Terminal.recvTick_sound {k : Terminal} (h : k.recv.terminalSound = true) (d : DevNo) (draws : Nat) :
    (k.recvTick d draws).recv.terminalSound = true := by
  unfold Terminal.recvTick
  split
  · exact h
  · rename_i b hb
    have progressed := (DevReg.progress_protocol hb (b.elapsed + 1)).2.trans h
    dsimp only
    split
    · split
      · exact progressed
      · split
        · exact DevReg.complete_terminalSound (markClear_termMark _ _ _) (by decide) _
        · exact DevReg.complete_terminalSound (markClear_shiftLeft _) (by decide) _
    · exact progressed

theorem Terminal.recvTick_transm (k : Terminal) (d : DevNo) (draws : Nat) :
    (k.recvTick d draws).transm = k.transm := by
  unfold Terminal.recvTick
  dsimp only
  (repeat' split) <;> rfl

namespace State.ProtocolSound

section
variable {s : State} (h : s.ProtocolSound)
include h

theorem diskMoves (d : DevNo) (b : Busy) (e : Nat) : (s.diskMoves d b e).ProtocolSound := by
  unfold State.diskMoves
  dsimp only
  split
  · exact h
  · split
    · split
      · exact h.congr rfl
      · split
        · exact h.setDisk d (h.disks d)
        · exact h
    · exact h

theorem endDisk (d : DevNo) {status : Word} (hst : status.extractLsb' 0 8 ≠ 3#8) :
    (s.endDisk d status).ProtocolSound := h.setDisk d (DevReg.complete_sound hst _)

theorem endSeek (d : DevNo) (b : Busy) : (s.endSeek d b).ProtocolSound := by
  unfold State.endSeek
  dsimp only
  split <;> exact h.setDisk d (DevReg.complete_sound (by decide) _)

theorem setMem (m : Memory) : ({ s with mem := m } : State).ProtocolSound := h.congr rfl

theorem endDiskRead (d : DevNo) (b : Busy) (e : Nat) : (s.endDiskRead d b e).ProtocolSound := by
  unfold State.endDiskRead
  dsimp only
  split
  · exact (h.setMem _).endDisk d (by decide)
  · split
    · exact (h.setMem _).endDisk d (by decide)
    · exact (h.diskMoves d b e).endDisk d (by decide)

theorem endDiskWrite (d : DevNo) (b : Busy) (e : Nat) : (s.endDiskWrite d b e).ProtocolSound := by
  unfold State.endDiskWrite
  dsimp only
  split
  · exact h.endDisk d (by decide)
  · have spoiled := fun image => h.setDisk d (k := { s.disks[d] with image := image }) (h.disks d)
    split
    · exact (spoiled _).endDisk d (by decide)
    · split
      · exact (spoiled _).endDisk d (by decide)
      · exact (h.diskMoves d b e).endDisk d (by decide)

theorem endDiskOp (d : DevNo) (b : Busy) (e : Nat) : (s.endDiskOp d b e).ProtocolSound := by
  unfold State.endDiskOp
  split
  · exact h.endSeek d b
  · exact h.endDiskRead d b e
  · exact h.endDiskWrite d b e
  · exact h.endDisk d (by decide)

theorem diskTick (d : DevNo) : (s.diskTick d).ProtocolSound := by
  unfold State.diskTick
  split
  · exact h
  · rename_i b hb
    dsimp only
    split
    · exact h.endDiskOp d b _
    · have moved := h.diskMoves d b (b.elapsed + 1)
      have hbusy : (s.diskMoves d b (b.elapsed + 1)).disks[d].reg.busy = some b := by rw [s.diskMoves_reg, hb]
      exact moved.setDisk d ((DevReg.progress_protocol hbusy _).1.trans (moved.disks d))

theorem tapeMoves (d : DevNo) (b : Busy) (e : Nat) : (s.tapeMoves d b e).ProtocolSound := by
  unfold State.tapeMoves
  dsimp only
  split
  · exact h
  · split
    · exact h.setMem _
    · exact h

theorem endTape (d : DevNo) {status : Word} (hst : status.extractLsb' 0 8 ≠ 3#8) (head : Nat) :
    (s.endTape d status head).ProtocolSound :=
  h.setTape d (k := { s.tapes[d] with reg := (s.tapes[d].reg.complete status).freshData1, head := head })
    (DevReg.complete_sound hst s.tapes[d].reg)

theorem endTapeRead (d : DevNo) (b : Busy) (e : Nat) : (s.endTapeRead d b e).ProtocolSound := by
  unfold State.endTapeRead
  dsimp only
  split
  · exact (h.setMem _).endTape d (by decide) _
  · split
    · exact (h.setMem _).endTape d (by decide) _
    · split
      · exact (h.setMem _).endTape d (by decide) _
      · exact (h.tapeMoves d b e).endTape d (by decide) _

theorem endTapeOp (d : DevNo) (b : Busy) (e : Nat) : (s.endTapeOp d b e).ProtocolSound := by
  unfold State.endTapeOp
  dsimp only
  split
  case h_2 => exact h.endTapeRead d b e
  case h_4 => exact h.endTape d (by decide) _
  all_goals (repeat' split) <;> exact h.endTape d (by decide) _

theorem tapeTick (d : DevNo) : (s.tapeTick d).ProtocolSound := by
  unfold State.tapeTick
  split
  · exact h
  · rename_i b hb
    dsimp only
    split
    · exact h.endTapeOp d b _
    · have moved := h.tapeMoves d b (b.elapsed + 1)
      have hbusy : (s.tapeMoves d b (b.elapsed + 1)).tapes[d].reg.busy = some b := by rw [s.tapeMoves_tapes, hb]
      exact moved.setTape d ((DevReg.progress_protocol hbusy _).1.trans (moved.tapes d))

theorem printerTick (d : DevNo) : (s.printerTick d).ProtocolSound :=
  h.setPrinter d (Printer.tick_sound (h.printers d) d)

theorem terminalTick (d : DevNo) : (s.terminalTick d).ProtocolSound := by
  refine h.setTerminal d (Terminal.recvTick_sound ?_ d _) ?_
  · rw [Terminal.transmTick_recv]
    exact h.receivers d
  · rw [Terminal.recvTick_transm]
    exact Terminal.transmTick_sound (h.transmitters d) d _

theorem devTick (d : DevNo) : (s.devTick d).ProtocolSound :=
  (((h.diskTick d).tapeTick d).printerTick d).terminalTick d

theorem foldl_devTick (devs : List DevNo) : (devs.foldl State.devTick s).ProtocolSound := by
  induction devs generalizing s with
  | nil => exact h
  | cons d rest ih => exact ih (h.devTick d)

theorem agents : s.agents.ProtocolSound :=
  have ticked : s.devicesTick.ProtocolSound := h.foldl_devTick allDevs
  ticked.congr (by simp [State.agents_eq, State.protocolFields_eq])

/-! ### The host's actions -/

theorem hostReset (p : Params) (files : List DeviceFile) : (s.hostReset p files).ProtocolSound := by
  have hsound := fun installed => DevReg.sound_of_terminalSound (DevReg.reset_terminalSound installed)
  refine ⟨fun d => ?_, fun d => ?_, fun d => ?_, fun d => ?_, fun d => ?_, h.noEdits⟩
  · exact (State.resetWith_disks p _ d).symm ▸ hsound _
  · exact (State.resetWith_tapes p _ d).symm ▸ hsound _
  · exact (State.resetWith_printers p _ d).symm ▸ hsound _
  · exact (State.resetWith_terminals p _ d).symm ▸ DevReg.reset_terminalSound _
  · exact (State.resetWith_terminals p _ d).symm ▸ DevReg.reset_terminalSound _

theorem hostCp0 (rd : RegIdx) (v : Word) : (s.hostCp0 rd v).ProtocolSound := by
  unfold State.hostCp0
  (repeat' split) <;> exact h.congr rfl

/-- An edit of a word of RAM reaches no device. -/
theorem hostWord {pa : Word} (hpa : 0x20000000 ≤ pa.toNat) (v : Word) : (s.hostWord pa v).ProtocolSound := by
  unfold State.hostWord
  split
  · exact h
  · split
    · exact h.setMem _
    · rename_i hdevice
      have := regionOf_device_bounds hdevice
      omega
    · exact h

theorem typed (d : DevNo) (line : List Byte) : (s.typed d line).ProtocolSound := by
  unfold State.typed
  split
  · exact h.setTerminal d (h.receivers d) (h.transmitters d)
  · exact h

/-- A cartridge is changed only while the tape is idle, and leaves Device Ready (R415, R416). -/
theorem changeTape (d : DevNo) (c : Option (List TapeBlock)) : (s.changeTape d c).ProtocolSound := by
  unfold State.changeTape
  dsimp only
  split
  · rename_i hidle
    simp only [Bool.and_eq_true, Option.isNone_iff_eq_none] at hidle
    have hready : (1#32 : Word).extractLsb' 0 8 ≠ 3#8 := by decide
    exact h.setTape d (DevReg.sound_of_idle hidle.2 hready)
  · exact h

theorem switchFailure (cls : DevClass) (d : DevNo) (on : Bool) : (s.switchFailure cls d on).ProtocolSound := by
  cases cls with
  | disk => exact h.setDisk d (h.disks d)
  | tape => exact h.setTape d (h.tapes d)
  | printer => exact h.setPrinter d (h.printers d)
  | terminal => exact h.setTerminal d (h.receivers d) (h.transmitters d)

theorem hostAct {a : HostAct} (ha : a.editsDevice = false) : (s.hostAct a).ProtocolSound := by
  cases a
  case setCp0 rd v => exact h.hostCp0 rd v
  case setWord pa v =>
    have hpa : ¬ pa.toNat < 0x20000000 := of_decide_eq_false ha
    exact h.hostWord (by omega) v
  case typeLine d line => exact h.typed d line
  case loadTape d blocks =>
    simp only [State.hostAct]
    split
    · exact h.changeTape d _
    · exact h
  case unloadTape d => exact h.changeTape d none
  case setFailure cls d on => exact h.switchFailure cls d on
  case reset p files => exact h.hostReset p files
  all_goals exact h.congr rfl

theorem hostActs {acts : List HostAct} (hacts : ∀ a ∈ acts, a.editsDevice = false) :
    (s.hostActs acts).ProtocolSound := by
  induction acts generalizing s with
  | nil => exact h
  | cons a rest ih =>
    obtain ⟨ha, hrest⟩ := List.forall_mem_cons.1 hacts
    exact ih (h.hostAct ha) hrest

/-- The host's turn: what it does now edits no device, nor does what it does later. -/
theorem hostTurn {acts : List HostAct} {rest : List (List HostAct)} (hi : s.inputs = acts :: rest) :
    (({ s with inputs := rest } : State).hostActs acts).ProtocolSound := by
  have hquiet := h.noEdits
  simp only [State.noDeviceEdits, hi, List.all_cons, Bool.and_eq_true] at hquiet
  obtain ⟨hacts, hrest⟩ := hquiet
  have started : ({ s with inputs := rest } : State).ProtocolSound :=
    ⟨h.disks, h.tapes, h.printers, h.receivers, h.transmitters, hrest⟩
  exact started.hostActs fun a ha => by simpa using List.all_eq_true.1 hacts a ha

end

end State.ProtocolSound

/-- The protocol where the interrupt test and the fetch are made. -/
theorem AfterAgents.protocolSound {s u : State} (hu : AfterAgents s u) (h : s.ProtocolSound) : u.ProtocolSound := by
  obtain ⟨_, rfl⟩ | ⟨acts, rest, hi, rfl⟩ := hu
  · exact h.agents
  · exact (h.hostTurn hi).agents

/-! ### Instructions -/

theorem State.cp0Write_protocolFields {s t : State} {rd : RegIdx} {v : Word} (h : s.cp0Write rd v = some t) :
    t.protocolFields = s.protocolFields := by
  unfold State.cp0Write at h
  split at h <;> cases h <;> rfl

theorem Effect.protocolSound {s t : State} (ht : Effect s t) (h : s.ProtocolSound) : t.ProtocolSound := by
  cases ht with
  | store hw => exact (h.memWrite hw).congr (by simp [State.protocolFields_eq])
  | storeAround hw =>
    obtain ⟨_, _, _, rfl⟩ := State.writeAround_ok hw
    exact h.congr (by simp [State.protocolFields_eq])
  | cp0 _ hw => exact (h.congr (State.cp0Write_protocolFields hw)).congr (by simp [State.protocolFields_eq])
  | entry | registers | tlb | tlbRead | probe | rfe => exact h.congr (by simp [State.protocolFields_eq])

/-! ### The ROM's routines -/

/-- A text sent by polling ends with the transmitter ready, and leaves the receiver alone (R318, R430). -/
theorem Terminal.transmitText_sound (k : Terminal) (text : List Byte) (draws : Nat) :
    (k.transmitText text draws).transm.terminalSound = true := by
  refine DevReg.terminalSound_of_quiet rfl ?_ rfl
  rw [DevReg.code, Terminal.transmitText, (markClear_termMark _ _ _).code_or]
  decide

theorem Terminal.transmitText_recv (k : Terminal) (text : List Byte) (draws : Nat) :
    (k.transmitText text draws).recv = k.recv := Terminal.transmTick_recv _ _ _

@[simp] theorem State.storeState_protocolFields (s : State) (a cause : Word) :
    (s.storeState a cause).protocolFields = s.protocolFields := by
  simp [State.storeState, State.protocolFields_eq]

@[simp] theorem State.loadState_protocolFields (s : State) (a : Word) :
    (s.loadState a).protocolFields = s.protocolFields := by
  simp [State.loadState, State.protocolFields_eq]

@[simp] theorem State.passUp_protocolFields (s : State) (old new : Word) :
    (s.passUp old new).protocolFields = s.protocolFields := by
  simp [State.passUp]

@[simp] theorem State.passUpRefill_protocolFields (s : State) (code : BitVec 5) :
    (s.passUpRefill code).protocolFields = s.protocolFields := by
  simp [State.passUpRefill]

@[simp] theorem State.forkRegs_protocolFields (s : State) (p : Word) :
    (s.forkRegs p).protocolFields = s.protocolFields := by
  simp [State.forkRegs, State.protocolFields_eq]

@[simp] theorem State.forkPause_protocolFields (s : State) (g : ForkRest) :
    (s.forkPause g).protocolFields = s.protocolFields := by
  simp [State.forkPause, State.protocolFields_eq]

@[simp] theorem State.forkLast_protocolFields (s : State) (g : ForkRest) :
    (s.forkLast g).protocolFields = s.protocolFields := by
  simp [State.forkLast, State.protocolFields_eq]

@[simp] theorem State.refill_protocolFields (s : State) (e : TlbEntry) :
    (s.refill e).protocolFields = s.protocolFields := by
  simp [State.refill, State.protocolFields_eq]

theorem State.bootTapeOk_idle {s : State} (h : s.bootTapeOk = true) : s.tapes[0].reg.busy = none := by
  simp only [State.bootTapeOk, Bool.and_eq_true, Option.isNone_iff_eq_none] at h
  exact h.1.1.2

section
variable {s t : State} (h : s.ProtocolSound)
include h

theorem romLdst_protocolSound (ht : romLdst s = .next t) : t.ProtocolSound := by
  unfold romLdst at ht
  dsimp only at ht
  split at ht <;> cases ht
  exact h.congr (by simp)

theorem romFork_protocolSound (ht : romFork s = .next t) : t.ProtocolSound := by
  unfold romFork at ht
  dsimp only at ht
  split at ht
  · cases ht
  · split at ht <;> cases ht <;> exact h.congr (by simp)

theorem romEnd_protocolSound {text : List Byte} {how : RunEnd} (ht : romEnd s text how = .next t) :
    t.ProtocolSound := by
  cases ht
  cases hinstalled : s.params.terminals.getLsbD 0 with
  | false => exact h.congr (by simp [State.protocolFields_eq])
  | true =>
    have shown := h.setTerminal 0 (k := s.terminals[0].transmitText text s.draws)
      (Terminal.transmitText_recv _ _ _ ▸ h.receivers 0) (Terminal.transmitText_sound _ _ _)
    exact shown.congr (by simp [State.protocolFields_eq])

theorem romBreak_protocolSound (ht : romBreak s = .next t) : t.ProtocolSound := by
  unfold romBreak at ht
  dsimp only at ht
  split at ht
  · cases ht; exact h.congr (by simp)
  · split at ht
    · exact romLdst_protocolSound h ht
    · split at ht
      · exact romFork_protocolSound h ht
      · split at ht
        · exact romEnd_protocolSound h ht
        · split at ht
          · exact romEnd_protocolSound h ht
          · cases ht; exact h.congr (by simp)

theorem romExcpt_protocolSound (ht : romExcpt s = .next t) : t.ProtocolSound := by
  unfold romExcpt at ht
  dsimp only at ht
  split at ht
  case h_10 => exact romBreak_protocolSound h ht
  case h_14 => cases ht
  all_goals cases ht; exact h.congr (by simp)

theorem romRefill_protocolSound (ht : romRefill s = .next t) : t.ProtocolSound := by
  unfold romRefill at ht
  dsimp only at ht
  split at ht
  · cases ht; exact h.congr (by simp)
  · split at ht <;> cases ht <;> exact h.congr (by simp)

/-- TAPEBOOT leaves its tape idle and ready (log entry 19). -/
theorem State.bootTapeRead_protocolSound (hok : s.bootTapeOk = true) : s.bootTapeRead.ProtocolSound := by
  have hready : (1#32 : Word).extractLsb' 0 8 ≠ 3#8 := by decide
  exact ⟨h.disks, forall_setDev (P := fun k : Tape => k.reg.sound = true) h.tapes 0
    (DevReg.sound_of_idle (State.bootTapeOk_idle hok) hready), h.printers, h.receivers, h.transmitters, h.noEdits⟩

theorem romBoot_protocolSound (ht : romBoot s = .next t) : t.ProtocolSound := by
  unfold romBoot at ht
  dsimp only at ht
  split at ht
  · cases ht
  · split at ht
    · cases ht
    · rename_i husable
      cases ht
      cases htape : s.params.bootFromTape with
      | false => exact h.congr (by simp [State.protocolFields_eq])
      | true =>
        have hok : s.bootTapeOk = true := by simpa [htape] using husable
        exact (State.bootTapeRead_protocolSound h hok).congr (by simp [State.protocolFields_eq])

theorem romRoutine_protocolSound (ht : romRoutine s = .next t) : t.ProtocolSound := by
  unfold romRoutine at ht
  split at ht
  · exact romRefill_protocolSound h ht
  · split at ht
    · exact romExcpt_protocolSound h ht
    · split at ht
      · exact romBoot_protocolSound h ht
      · cases ht

end

theorem State.ProtocolSound.runAgents (n : Nat) {s : State} (h : s.ProtocolSound) :
    (State.runAgents n s).ProtocolSound := by
  induction n generalizing s with
  | zero => exact h
  | succ n ih => exact ih h.agents

theorem romStep_protocolSound {s t : State} (h : s.ProtocolSound) (ht : romStep s = .next t) : t.ProtocolSound := by
  have entered : (State.runAgents (Config.freeNat .romCycles s.draws) s).commitLoad.ProtocolSound :=
    (h.runAgents (Config.freeNat .romCycles s.draws)).congr (by simp [State.protocolFields_eq])
  unfold romStep at ht
  dsimp only at ht
  split at ht
  · cases ht; exact entered.congr (by simp)
  · split at ht
    · exact romRoutine_protocolSound entered ht
    · cases ht

/-! ### The step -/

theorem Turn.protocolSound {u t : State} (ht : Turn u t) (h : u.ProtocolSound) : t.ProtocolSound := by
  cases ht with
  | ended _ => exact h
  | entry e => exact h.congr (by simp [State.protocolFields_eq])
  | instruction he => exact he.protocolSound h
  | rom _ hr => exact romStep_protocolSound h hr

/-- Settles O53: the host's actions and the agents keep the protocol, and so does whatever the turn then does. -/
theorem stepKeepsDeviceProtocol : Obligations.StepKeepsDeviceProtocol := by
  unfold Obligations.StepKeepsDeviceProtocol
  intro s t hsound hquiet hstep
  obtain ⟨u, hu, _, hturn⟩ := step_turn hstep
  have entered : u.ProtocolSound := hu.protocolSound (s.protocol_iff.1 ⟨hsound, hquiet⟩)
  exact t.protocol_iff.2 (hturn.protocolSound entered)

end Sys2Proof.Machine
end

section
/-! SUPPORT. The statements of 60_exceptions.md about exception entry and interrupts. -/

namespace Sys2Proof.Machine

/-! ### The push and the pop after it (R352, R290) -/

/-- A pop after a push gives the current and previous bits back, and the old bits the previous ones. -/
theorem bitAt_popStacks_pushStacks (st : Word) {i : Nat} (hi : i < 32) : bitAt (popStacks (pushStacks st)) i =
    if i = 4 ∨ i = 5 then bitAt st (i - 2) else if i = 26 then bitAt st 25 else bitAt st i := by
  rw [bitAt_popStacks _ i hi]
  by_cases hlow : i ≤ 3
  · rw [if_pos hlow, bitAt_pushStacks st _ (by omega), if_neg (by omega), if_pos (by omega), if_neg (by omega),
      if_neg (by omega), Nat.add_sub_cancel]
  · rw [if_neg hlow]
    by_cases hvm : i = 24 ∨ i = 25
    · rw [if_pos hvm, bitAt_pushStacks st _ (by omega), if_neg (by omega), if_neg (by omega), if_pos (by omega),
        if_neg (by omega), if_neg (by omega), Nat.add_sub_cancel]
    · rw [if_neg hvm, bitAt_pushStacks st i hi, if_neg (by omega)]
      by_cases hold : i = 4 ∨ i = 5
      · rw [if_pos (by omega), if_pos hold]
      · rw [if_neg (by omega), if_neg hold]
        by_cases hvmo : i = 26
        · rw [if_pos (.inr hvmo), if_pos hvmo, hvmo]
        · rw [if_neg (by omega), if_neg hvmo]

/-- Settles O31: the entry pushes Status, the return from exception pops it. -/
theorem entryPushesStacks : Obligations.EntryPushesStacks := by
  unfold Obligations.EntryPushesStacks
  intro s e
  refine ⟨pushed_pushStacks s.status, fun i hi => ?_⟩
  rw [State.returnFromException_status, State.takeException_status]
  exact bitAt_popStacks_pushStacks s.status hi

/-! ### The vectors (R354) -/

theorem vectorOf_eq (s : State) (e : Exc) : vectorOf s.bev e =
    if bitAt s.status 22 then (if e.isRefill then 0x1FC00100#32 else 0x1FC00180#32)
      else (if e.isRefill then 0x00000000#32 else 0x00000080#32) := by
  cases hrefill : e.isRefill with
  | false => exact vectorOf_general s e hrefill
  | true => exact vectorOf_refill s e hrefill

/-- The handler's first fetch is in kernel-mode with VM off, so its address is physical. -/
theorem State.resolve_takeException (s : State) (e : Exc) (kind : AccessKind) (va : Word) :
    (s.takeException e).resolve kind va = .ok va := by
  obtain ⟨_, _, _, _, hkernel, _, _, _, hvmoff, _⟩ := pushed_pushStacks s.status
  exact State.resolve_physical _ kind va hkernel (.inl hvmoff)

/-- Settles O32: the vectors by cases, the fetch by the mode the push leaves. -/
theorem entryVectors : Obligations.EntryVectors := by
  unfold Obligations.EntryVectors
  intro s e
  obtain ⟨_, _, _, _, _, _, _, _, _, hkept⟩ := pushed_pushStacks s.status
  exact ⟨vectorOf_eq s e, rfl, rfl, hkept 22 (by omega) (by omega) (by omega) (by omega) (by omega),
    s.resolve_takeException e .fetch _⟩

/-! ### The interrupt test (R362) -/

theorem getLsbD_interruptMask : ∀ i : Nat, i < 32 → (0x0000FF00#32).getLsbD i = decide (8 ≤ i ∧ i < 16) := by decide

/-- Some line that is pending is also enabled. -/
theorem and_interruptMask_ne_zero_iff (c st : Word) : c &&& st &&& 0x0000FF00#32 ≠ 0#32 ↔
    ∃ i, i < 8 ∧ bitAt c (8 + i) = true ∧ bitAt st (8 + i) = true := by
  have hbit {i : Nat} (hi : i < 32) : (c &&& st &&& 0x0000FF00#32).getLsbD i = true ↔
      (bitAt c i = true ∧ bitAt st i = true) ∧ 8 ≤ i ∧ i < 16 := by
    rw [BitVec.getLsbD_and, BitVec.getLsbD_and, getLsbD_interruptMask i hi, Bool.and_eq_true, Bool.and_eq_true,
      decide_eq_true_eq]
    rfl
  constructor
  · intro hne
    by_contra hnone
    refine hne (BitVec.eq_of_getLsbD_eq fun i hi => ?_)
    rw [BitVec.getLsbD_zero, ← Bool.not_eq_true, hbit hi]
    rintro ⟨hboth, hlow, hhigh⟩
    exact hnone ⟨i - 8, by omega, by rwa [show 8 + (i - 8) = i by omega]⟩
  · rintro ⟨i, hi, hboth⟩ hzero
    have hset := (hbit (i := 8 + i) (by omega)).2 ⟨hboth, by omega, by omega⟩
    rw [hzero, BitVec.getLsbD_zero] at hset
    cases hset

theorem State.interruptTaken_iff (s : State) : s.interruptTaken = true ↔
    bitAt s.status 0 = true ∧ ∃ i, i < 8 ∧ bitAt s.causeRead (8 + i) = true ∧ bitAt s.status (8 + i) = true := by
  rw [State.interruptTaken, Bool.and_eq_true, decide_eq_true_eq, and_interruptMask_ne_zero_iff]
  rfl

/-- Settles O36: the test is on the word of the enabled pending lines; the step that takes it is the entry. -/
theorem interruptTest : Obligations.InterruptTest := by
  unfold Obligations.InterruptTest
  intro s u hagents hwf hended
  refine ⟨u.interruptTaken_iff, fun hint => ?_⟩
  rw [step_interrupt hagents hwf hended hint]
  exact raise_plain u .int rfl rfl rfl

end Sys2Proof.Machine
end

section
/-! SUPPORT. The Interval Timer, and stores in the bus and device area. -/

namespace Sys2Proof.Machine

/-! ### The Interval Timer counts down (R384) -/

theorem State.tick_timer_of_pos {s : State} (h : 0 < s.timer.toNat) : s.tick.timer.toNat = s.timer.toNat - 1 := by
  have hne : s.timer ≠ 0#32 := fun e => by simp [e] at h
  have hlt := s.timer.isLt
  rw [State.tick_timer, if_neg hne, BitVec.toNat_sub, BitVec.toNat_ofNat]
  omega

theorem State.tick_timerPending_of_pos {s : State} (h : 0 < s.timer.toNat) :
    s.tick.timerPending = s.timerPending := by
  have hne : s.timer ≠ 0#32 := fun e => by simp [e] at h
  rw [State.tick_timerPending, decide_eq_false hne, Bool.or_false]

/-- As long as it has not passed 0 it loses one a tick and raises no interrupt. -/
theorem State.timer_after_ticks (s : State) : ∀ n : Nat, n ≤ s.timer.toNat →
    ((fun u : State => u.tick)^[n] s).timer.toNat = s.timer.toNat - n
      ∧ ((fun u : State => u.tick)^[n] s).timerPending = s.timerPending
  | 0, _ => ⟨rfl, rfl⟩
  | n + 1, hn => by
    obtain ⟨htimer, hpending⟩ := s.timer_after_ticks n (by omega)
    rw [Function.iterate_succ_apply']
    have hpos : 0 < ((fun u : State => u.tick)^[n] s).timer.toNat := by omega
    exact ⟨by rw [State.tick_timer_of_pos hpos]; omega, by rw [State.tick_timerPending_of_pos hpos, hpending]⟩

/-- The tick after 0 passes it: 0xFFFFFFFF, with the interrupt (R384). -/
theorem State.tick_timer_of_zero {s : State} (h : s.timer.toNat = 0) :
    s.tick.timer = 0xFFFFFFFF#32 ∧ s.tick.timerPending = true := by
  have hzero : s.timer = 0#32 := BitVec.eq_of_toNat_eq h
  simp [hzero]

theorem State.writeBus_timer (s : State) (v : Word) :
    s.writeBus 8 v = { s with timer := v, timerPending := false } := rfl

/-- Settles O45: see `State.timer_after_ticks`; after `v` ticks the count is 0. -/
theorem timerCountsDown : Obligations.TimerCountsDown := by
  unfold Obligations.TimerCountsDown
  intro s v n hn
  have hcount := (s.writeBus 8 v).timer_after_ticks
  obtain ⟨htimer, hpending⟩ := hcount n hn
  obtain ⟨hlast, _⟩ := hcount v.toNat (le_refl _)
  refine ⟨htimer, hpending, ?_⟩
  rw [Function.iterate_succ_apply']
  exact State.tick_timer_of_zero (hlast.trans (Nat.sub_self _))

/-! ### The words of the area (R380, R385, R387, R388, R395) -/

/-- A word below the device registers but the timer's ignores a store. -/
theorem State.writeBus_readOnly (s : State) {n : Nat} (hn : n < 20) (htimer : n ≠ 8) (v : Word) :
    s.writeBus n v = s := by
  rw [State.writeBus, if_neg htimer, if_neg (by omega)]

/-- A store to a device register's address is one to its line, device and field. -/
theorem State.writeBus_deviceAddr (s : State) {pa : Word} {line : Nat} {d : DevNo} {f : Nat} (hline : 3 ≤ line)
    (hf : f < 4) (hpa : pa.toNat = deviceAddr line d f) (v : Word) :
    s.writeBus (busWordOf pa) v = s.writeDevice line d f v := by
  have hd := d.isLt
  have hword : busWordOf pa = 20 + (line - 3) * 32 + d.val * 4 + f := by
    rw [busWordOf, hpa, deviceAddr]
    omega
  have hlineOf : lineOfWord (busWordOf pa) = line := by rw [hword, lineOfWord]; omega
  have hdevOf : devOfWord (busWordOf pa) = d := Fin.ext (by rw [hword]; simp only [devOfWord]; omega)
  have hfieldOf : fieldOfWord (busWordOf pa) = f := by rw [hword, fieldOfWord]; omega
  rw [State.writeBus, if_neg (by omega), if_pos (by omega), hlineOf, hdevOf, hfieldOf]

/-! ### Stores in the area (R92, R96) -/

/-- A translated address keeps its offset in the page, so its alignment. -/
theorem toNat_physOf_mod (lo va : Word) : (physOf lo va).toNat % 4096 = va.toNat % 4096 := by
  have hoffset : (physOf lo va).extractLsb' 0 12 = va.extractLsb' 0 12 := by
    rw [physOf_eq, BitVec.extractLsb'_append_eq_right]
  simpa only [BitVec.extractLsb'_toNat, Nat.shiftRight_zero] using congrArg BitVec.toNat hoffset

theorem State.resolve_ok_mod {s : State} {kind : AccessKind} {va pa : Word} (h : s.resolve kind va = .ok pa) :
    pa.toNat % 4096 = va.toNat % 4096 := by
  unfold State.resolve at h
  split at h
  · cases h
  · split at h
    · cases h; rfl
    · unfold State.translate at h
      split at h
      · cases h
      · dsimp only at h
        (repeat' split at h) <;> cases h
        exact toNat_physOf_mod _ va

/-- The end of a store that left the CPU's own state: the registers are kept and it goes on. -/
theorem SameCpu.keepsRegs {s u : State} (h : SameCpu s u) : KeepsRegs s (u.retire {}) := by
  have hsettled : ∀ r, u.settled r = s.settled r := fun r => by
    simp only [State.settled, State.forwarded, State.reg_eq, h.gpr, h.ldelay]
  refine ⟨fun r => (u.retire_sameRegs {} rfl rfl r).trans (hsettled r), rfl, ⟨h.npc, ?_, rfl, rfl⟩, h.hi, h.lo⟩
  simp only [State.retire_npc, Option.getD_none, State.succ, nextButOne, h.npc, h.succPc]

section
variable {s : State} {va pa : Word} (hpa : s.resolve .store va = .ok pa)
include hpa

/-- SW stores a word of the area: the registers and memory are kept, the area is as `State.writeBus` says. -/
theorem finishStore_bus (hm : misaligned .word va = false) (h : regionOf s.params pa 4 = .device) {v : Word} {u : State}
    (hu : s.writeBus (busWordOf pa) v = u) :
    ∃ t, finishStore s (s.memWrite .word va v) = .next t ∧ KeepsRegs s t ∧ SameMemory s t ∧ SameSystem u t := by
  have hregion : regionOf s.params pa Width.word.bytes = .device := h
  obtain ⟨hcpu, hmem⟩ := s.writeBus_frame (busWordOf pa) v
  rw [hu] at hcpu hmem
  rw [State.memWrite_aligned hm hpa, State.physWrite, hregion]
  dsimp only
  rw [if_pos rfl, hu]
  exact ⟨u.retire {}, rfl, hcpu.keepsRegs, sameMemory_refl s _ hmem, sameSystem_retire u {}⟩

variable (hwf : s.params.wf = true) (h : regionOf s.params pa 1 = .device)
include hwf h

/-- A byte or halfword store in the area is refused. -/
theorem finishStore_subWord {w : Width} (hw : w ≠ .word) (hm : misaligned w va = false) (v : Word) :
    finishStore s (s.memWrite w va v) = .refused .subWordDeviceAccess := by
  obtain ⟨hlow, hhigh⟩ := regionOf_device_bounds h
  rw [State.memWrite_aligned hm hpa, State.physWrite, regionOf_device hwf hlow hhigh w.bytes_pos]
  dsimp only
  rw [if_neg hw]
  rfl

/-- So are SWL and SWR at every byte position. -/
theorem finishStore_around_device (merge : Word → Word) :
    finishStore s (s.writeAround va merge) = .refused .subWordDeviceAccess := by
  obtain ⟨hlow, hhigh⟩ := regionOf_device_bounds h
  have hword : regionOf s.params (wordAddr pa) 4 = .device :=
    regionOf_device hwf (by rw [toNat_wordAddr]; omega) (by rw [toNat_wordAddr]; omega) (by omega)
  rw [State.writeAround, hpa]
  dsimp only
  rw [hword]
  rfl

end

/-- The four stores but SW in the bus and device area. -/
theorem exec_stores_refused {s : State} {rt rs : RegIdx} {imm : BitVec 16} {va pa : Word}
    (hva : va = s.rs rs + imm.signExtend 32) (hpa : s.resolve .store va = .ok pa) (hwf : s.params.wf = true)
    (h : regionOf s.params pa 1 = .device) {i : Instr}
    (hi : i ∈ [Instr.sb rt rs imm, .sh rt rs imm, .swl rt rs imm, .swr rt rs imm]) (hm : mayAccess i va = true) :
    exec i s = .refused .subWordDeviceAccess := by
  subst hva
  simp only [List.mem_cons, List.not_mem_nil, or_false] at hi
  obtain rfl | rfl | rfl | rfl := hi
  · exact finishStore_subWord (w := .byte) hpa hwf h nofun rfl _
  · exact finishStore_subWord (w := .half) hpa hwf h nofun (misaligned_half_eq_false (of_decide_eq_true hm)) _
  · exact finishStore_around_device hpa hwf h _
  · exact finishStore_around_device hpa hwf h _

/-- Settles O46: SW by the word its address names, which is aligned as the address accessed is; the others refused. -/
theorem busAreaStores : Obligations.BusAreaStores := by
  unfold Obligations.BusAreaStores
  intro s rt rs imm pa hpa
  refine ⟨fun hdevice halign => ?_, fun hwf hdevice i hi hm => exec_stores_refused rfl hpa hwf hdevice hi hm⟩
  have hsw {u : State} (hu : s.writeBus (busWordOf pa) (s.rt rt) = u) :
      ∃ t, exec (.sw rt rs imm) s = .next t ∧ KeepsRegs s t ∧ SameMemory s t ∧ SameSystem u t :=
    finishStore_bus hpa (misaligned_word_eq_false halign) hdevice hu
  refine ⟨fun htimer => ?_, fun hlow hother => ?_, fun line d f hline _ hf haddr =>
    hsw (s.writeBus_deviceAddr hline hf haddr _)⟩
  · subst htimer
    obtain ⟨t, ht, hregs, hmem, hsystem⟩ := hsw (s.writeBus_timer _)
    refine ⟨t, ht, hsystem.timer, hsystem.timerPending, hregs, hmem, ?_⟩
    rw [hsystem.timer, hsystem.timerPending]
    exact hsystem
  · obtain ⟨hbase, _⟩ := regionOf_device_bounds hdevice
    have hpage := State.resolve_ok_mod hpa
    have haddr : pa.toNat ≠ 0x10000020 := fun e => hother (BitVec.eq_of_toNat_eq e)
    have hreadOnly := s.writeBus_readOnly (n := busWordOf pa) (by rw [busWordOf]; omega) (by rw [busWordOf]; omega)
      (s.rt rt)
    obtain ⟨t, ht, hregs, hmem, hsystem⟩ := hsw hreadOnly
    exact ⟨t, ht, ⟨hregs, hsystem⟩, hmem⟩

end Sys2Proof.Machine
end

section
/-! SUPPORT. Stores to a device's words, class by class (R395 to R408, R415 to R430): what COMMAND and DATA0 take, and
what is ignored. -/

namespace Sys2Proof.Machine

/-! ### Status words (R401, R427) -/

/-- What may stand beside a code in a status word: nothing, but for a terminal's character field. -/
def MarkFits (terminal : Bool) (mark : Word) : Prop :=
  MarkClear mark ∧ if terminal then mark.extractLsb' 16 16 = 0#16 else mark.extractLsb' 8 24 = 0#24

theorem markFits_zero (terminal : Bool) : MarkFits terminal 0#32 := by
  cases terminal <;> exact ⟨by decide, by decide⟩

theorem markFits_termMark (unit : Nat) (d : DevNo) (draws : Nat) : MarkFits true (termMark unit d draws) := by
  refine ⟨markClear_termMark unit d draws, BitVec.eq_of_getLsbD_eq fun i hi => ?_⟩
  have hfield : (0x000000FF#32).getLsbD (16 + i - 8) = false := by
    have hbyte : ∀ j : Nat, j < 32 → 8 ≤ j → (0x000000FF#32).getLsbD j = false := by decide
    exact hbyte _ (by omega) (by omega)
  rw [termMark, BitVec.getLsbD_extractLsb', BitVec.getLsbD_shiftLeft, BitVec.getLsbD_and, hfield]
  simp

/-- A status word of a mark and a code shows the code. -/
theorem DevReg.shows_of_status {r : DevReg} {terminal : Bool} {mark : Word} {code : BitVec 8}
    (hmark : MarkFits terminal mark) (hs : r.status = mark ||| code.setWidth 32) : r.shows terminal code := by
  obtain ⟨hclear, hrest⟩ := hmark
  have hcode : (code.setWidth 32).extractLsb' 0 8 = code := by
    rw [BitVec.extractLsb'_setWidth_of_le (by omega), BitVec.extractLsb'_eq_self]
  have hhigh : ∀ start len, 8 ≤ start → (code.setWidth 32).extractLsb' start len = 0#len := fun start len h => by
    apply BitVec.eq_of_getLsbD_eq
    intro i hi
    have habove : code.getLsbD (start + i) = false := BitVec.getLsbD_of_ge _ _ (by omega)
    simp [habove]
  refine ⟨by rw [DevReg.code, hs, hclear.code_or, hcode], ?_⟩
  cases terminal with
  | true =>
    rw [if_pos rfl] at hrest ⊢
    rw [hs, BitVec.extractLsb'_or, hrest, hhigh 16 16 (by omega), BitVec.or_self]
  | false =>
    rw [if_neg Bool.false_ne_true] at hrest ⊢
    rw [hs, BitVec.extractLsb'_or, hrest, hhigh 8 24 (by omega), BitVec.or_self]

/-! ### One register (R396, R398, R400, R401) -/

/-- What a register is after a store of `v` to its idle device's COMMAND, by the code, `last` being the highest code
of an operation (R396, R400, R401). -/
def DevReg.Answers (old new : DevReg) (last : Nat) (terminal : Bool) (v : Word) : Prop :=
  new.command = v ∧ new.data0 = old.data0 ∧ new.failing = old.failing
    ∧ (v.toNat % 256 ≤ 1 → new.shows terminal 1#8 ∧ new.pending = false ∧ new.busy = none)
    ∧ (2 ≤ v.toNat % 256 → v.toNat % 256 ≤ last → new.shows terminal 3#8 ∧ new.pending = false
        ∧ ∃ b, new.busy = some b ∧ b.command = v ∧ b.data0 = old.data0 ∧ b.elapsed = 0)
    ∧ (last < v.toNat % 256 → new.shows terminal 2#8 ∧ new.pending = true ∧ new.busy = none)

section
variable {r : DevReg}

theorem DevReg.issue_answers (hidle : r.busy = none) {last : Nat} (hlast : 1 ≤ last) {terminal : Bool} {mark : Word}
    (hmark : MarkFits terminal mark) (total stamp : Nat) (v : Word) :
    r.Answers (r.issue last mark total stamp v) last terminal v := by
  rcases Nat.lt_or_ge 1 (v.toNat % 256) with hlow | hready
  · rcases Nat.lt_or_ge last (v.toNat % 256) with hillegal | hhigh
    · rw [DevReg.issue_illegal hidle hlast hillegal]
      exact ⟨rfl, rfl, rfl, fun _ => by omega, fun _ _ => by omega,
        fun _ => ⟨DevReg.shows_of_status hmark rfl, rfl, hidle⟩⟩
    · rw [DevReg.issue_operation hidle hlow hhigh]
      exact ⟨rfl, rfl, rfl, fun _ => by omega,
        fun _ _ => ⟨DevReg.shows_of_status hmark rfl, rfl, _, rfl, rfl, rfl, rfl⟩, fun _ => by omega⟩
  · rw [DevReg.issue_ready hidle hready]
    exact ⟨rfl, rfl, rfl, fun _ => ⟨DevReg.shows_of_status hmark rfl, rfl, hidle⟩, fun _ _ => by omega,
      fun _ => by omega⟩

theorem DevReg.issueTape_answers (hidle : r.busy = none) (total stamp : Nat) (v : Word) :
    r.Answers (r.issueTape total stamp v) 4 false v := by
  obtain ⟨x, hx⟩ := r.issueTape_but_data1 total stamp v
  rw [hx]
  exact DevReg.issue_answers hidle (by omega) (markFits_zero false) total stamp v

theorem DevReg.issue_data1 (last : Nat) (mark : Word) (total stamp : Nat) (v : Word) :
    (r.issue last mark total stamp v).data1 = r.data1 := by
  unfold DevReg.issue
  (repeat' split) <;> rfl

theorem DevReg.resets_busy (hbusy : r.busy ≠ none) (v : Word) : r.resets v = false := by
  rw [DevReg.resets, Option.isNone_eq_false_iff.2 (Option.isSome_iff_ne_none.2 hbusy), Bool.false_and]

theorem DevReg.resets_idle (hidle : r.busy = none) (v : Word) : r.resets v = decide (v.toNat % 256 = 0) := by
  have hcode : commandCode v = 0#8 ↔ v.toNat % 256 = 0 := by
    rw [← commandCode_toNat, ← BitVec.toNat_inj]
    rfl
  rw [DevReg.resets, hidle, Option.isNone_none, Bool.true_and, decide_eq_decide]
  exact hcode

/-- A RESET and an operation of a tape end the host's word in DATA1 (log entry 12). -/
theorem DevReg.issueTape_data1 (hidle : r.busy = none) (total stamp : Nat) (v : Word) :
    (r.issueTape total stamp v).data1 = if v.toNat % 256 = 1 ∨ 4 < v.toNat % 256 then r.data1 else none := by
  have hfresh : (r.resets v || (r.busy.isNone && (r.issue 4 0#32 total stamp v).busy.isSome)) =
      decide ¬ (v.toNat % 256 = 1 ∨ 4 < v.toNat % 256) := by
    rw [DevReg.resets_idle hidle]
    rcases Nat.lt_or_ge 1 (v.toNat % 256) with hlow | hready
    · rcases Nat.lt_or_ge 4 (v.toNat % 256) with hillegal | hhigh
      · rw [DevReg.issue_illegal hidle (by omega) hillegal]
        simp [hidle, hillegal, show v.toNat % 256 ≠ 0 by omega]
      · rw [DevReg.issue_operation hidle hlow hhigh]
        simp [hidle, hhigh, show v.toNat % 256 ≠ 1 by omega]
    · rw [DevReg.issue_ready hidle hready]
      simp only [hidle, Option.isSome_none, Bool.and_false, Bool.or_false, decide_eq_decide]
      omega
  rw [DevReg.issueTape, hfresh]
  by_cases hkept : v.toNat % 256 = 1 ∨ 4 < v.toNat % 256
  · rw [if_neg (by simp [hkept]), if_pos hkept, DevReg.issue_data1]
  · rw [if_pos (by simp [hkept]), if_neg hkept]
    rfl

theorem DevReg.setData0_busy (hbusy : r.busy ≠ none) (v : Word) : r.setData0 v = r :=
  if_pos (Option.isSome_iff_ne_none.2 hbusy)

theorem DevReg.setData0_idle (hidle : r.busy = none) (v : Word) : r.setData0 v = { r with data0 := v } :=
  if_neg (by simp [hidle])

end

/-! ### The device after a store to COMMAND -/

/-- A disk after a store to its COMMAND (R400, R408). -/
def Disk.commanded (k : Disk) (d : DevNo) (draws : Nat) (v : Word) : Disk :=
  { k with reg := k.reg.issue 4 0#32 (operationLength diskUnit d draws) draws v,
           boom := if k.reg.resets v then 0 else k.boom }

/-- A tape with a cartridge after one to its COMMAND (R400, R418). -/
def Tape.commanded (k : Tape) (d : DevNo) (draws : Nat) (v : Word) : Tape :=
  { k with reg := k.reg.issueTape (operationLength tapeUnit d draws) draws v,
           head := if k.reg.resets v then 0 else k.head }

/-- A printer after one to its COMMAND (R421). -/
def Printer.commanded (k : Printer) (d : DevNo) (draws : Nat) (v : Word) : Printer :=
  { k with reg := k.reg.issue 2 0#32 (operationLength printerUnit d draws) draws v }

/-- A terminal after one to RECV_COMMAND (R428). -/
def Terminal.recvCommanded (k : Terminal) (d : DevNo) (draws : Nat) (v : Word) : Terminal :=
  { k with recv := k.recv.issue 2 (termMark recvUnit d draws) (operationLength recvUnit d draws) draws v }

/-- A terminal after one to TRANSM_COMMAND (R430). -/
def Terminal.transmCommanded (k : Terminal) (d : DevNo) (draws : Nat) (v : Word) : Terminal :=
  { k with transm := k.transm.issue 2 (termMark transmUnit d draws) (operationLength transmUnit d draws) draws v }

theorem setDev_self {α : Type} (bank : Vector α 8) (d : DevNo) : setDev bank d bank[d] = bank := by
  simp [setDev]

section
variable (s : State) (d : DevNo) (v : Word)

theorem State.writeDisk_command :
    s.writeDisk d 1 v = { s with disks := setDev s.disks d (s.disks[d].commanded d s.draws v) } := rfl

theorem State.writeTape_command (h : s.tapes[d].cartridge ≠ none) :
    s.writeTape d 1 v = { s with tapes := setDev s.tapes d (s.tapes[d].commanded d s.draws v) } :=
  if_neg (by simpa using h)

/-- Without a cartridge a tape takes no command (R416). -/
theorem State.writeTape_command_empty (h : s.tapes[d].cartridge = none) : s.writeTape d 1 v = s :=
  if_pos (Option.isNone_iff_eq_none.2 h)

theorem State.writePrinter_command :
    s.writePrinter d 1 v = { s with printers := setDev s.printers d (s.printers[d].commanded d s.draws v) } := rfl

theorem State.writeTerminal_recvCommand :
    s.writeTerminal d 1 v = { s with terminals := setDev s.terminals d (s.terminals[d].recvCommanded d s.draws v) } :=
  rfl

theorem State.writeTerminal_transmCommand :
    s.writeTerminal d 3 v = { s with terminals := setDev s.terminals d (s.terminals[d].transmCommanded d s.draws v) } :=
  rfl

/-! ### Installed devices (R398) -/

variable (f : Nat)

theorem State.writeDevice_disk :
    s.writeDevice 3 d f v = if s.params.disks.getLsbD d then s.writeDisk d f v else s := rfl

theorem State.writeDevice_tape :
    s.writeDevice 4 d f v = if s.params.tapes.getLsbD d then s.writeTape d f v else s := rfl

theorem State.writeDevice_printer :
    s.writeDevice 6 d f v = if s.params.printers.getLsbD d then s.writePrinter d f v else s := rfl

theorem State.writeDevice_terminal :
    s.writeDevice 7 d f v = if s.params.terminals.getLsbD d then s.writeTerminal d f v else s := rfl

/-- STATUS and DATA1 of a disk, tape or printer are read-only (R92, R395). -/
theorem State.writeDevice_readOnly : ∀ line ∈ [3, 4, 6], ∀ g ∈ [0, 3], s.writeDevice line d g v = s := by
  intro line hline g hg
  simp only [List.mem_cons, List.not_mem_nil, or_false] at hline hg
  obtain rfl | rfl | rfl := hline <;> obtain rfl | rfl := hg <;> exact ite_self s

/-- So are the two status words of a terminal (R425). -/
theorem State.writeDevice_terminalStatus : ∀ g ∈ [0, 2], s.writeDevice 7 d g v = s := by
  intro g hg
  simp only [List.mem_cons, List.not_mem_nil, or_false] at hg
  obtain rfl | rfl := hg <;> exact ite_self s

/-! ### Busy devices (R398) -/

variable {s d}

theorem State.writeDisk_busy (h : s.disks[d].reg.busy ≠ none) : s.writeDisk d f v = s := by
  unfold State.writeDisk
  dsimp only
  split
  · rw [DevReg.issue_busy h, DevReg.resets_busy h, if_neg Bool.false_ne_true, setDev_self]
  · rw [DevReg.setData0_busy h, setDev_self]
  · rfl

theorem State.writeTape_busy (h : s.tapes[d].reg.busy ≠ none) : s.writeTape d f v = s := by
  unfold State.writeTape
  dsimp only
  split
  · rw [DevReg.issueTape_busy _ _ v _ (Option.isSome_iff_ne_none.2 h), DevReg.resets_busy h,
      if_neg Bool.false_ne_true, setDev_self, ite_self]
  · rw [DevReg.setData0_busy h, setDev_self]
  · rfl

theorem State.writePrinter_busy (h : s.printers[d].reg.busy ≠ none) : s.writePrinter d f v = s := by
  unfold State.writePrinter
  dsimp only
  split
  · rw [DevReg.issue_busy h, setDev_self]
  · rw [DevReg.setData0_busy h, setDev_self]
  · rfl

theorem State.writeTerminal_recvBusy (h : s.terminals[d].recv.busy ≠ none) : s.writeTerminal d 1 v = s := by
  rw [State.writeTerminal_recvCommand, Terminal.recvCommanded, DevReg.issue_busy h, setDev_self]

theorem State.writeTerminal_transmBusy (h : s.terminals[d].transm.busy ≠ none) : s.writeTerminal d 3 v = s := by
  rw [State.writeTerminal_transmCommand, Terminal.transmCommanded, DevReg.issue_busy h, setDev_self]

end

end Sys2Proof.Machine
end

section
/-! SUPPORT. The statements of 60_exceptions.md about stores to devices. -/

namespace Sys2Proof.Machine

section
variable {s : State} {d : DevNo}

/-- The half of a terminal whose COMMAND is not stored to (R425). -/
theorem State.writeDevice_otherHalf (s : State) (d : DevNo) (v : Word) :
    (s.writeDevice 7 d 1 v).terminals[d].transm = s.terminals[d].transm
      ∧ (s.writeDevice 7 d 3 v).terminals[d].recv = s.terminals[d].recv := by
  rw [State.writeDevice_terminal, State.writeDevice_terminal]
  cases s.params.terminals.getLsbD d with
  | false => exact ⟨rfl, rfl⟩
  | true =>
    rw [if_pos rfl, if_pos rfl, State.writeTerminal_recvCommand, State.writeTerminal_transmCommand]
    dsimp only
    rw [setDev_getElem_self, setDev_getElem_self]
    exact ⟨rfl, rfl⟩

/-! ### Each class's answer to COMMAND -/

theorem State.disk_answers (hinst : s.params.disks.getLsbD d = true) (hidle : s.disks[d].reg.busy = none) (v : Word) :
    s.disks[d].reg.Answers (s.writeDevice 3 d 1 v).disks[d].reg 4 false v := by
  rw [State.writeDevice_disk, if_pos hinst, State.writeDisk_command]
  dsimp only
  rw [setDev_getElem_self]
  exact DevReg.issue_answers hidle (by omega) (markFits_zero false) _ _ v

theorem State.tape_answers (hinst : s.params.tapes.getLsbD d = true) (hloaded : s.tapes[d].cartridge ≠ none)
    (hidle : s.tapes[d].reg.busy = none) (v : Word) :
    s.tapes[d].reg.Answers (s.writeDevice 4 d 1 v).tapes[d].reg 4 false v := by
  rw [State.writeDevice_tape, if_pos hinst, State.writeTape_command _ _ _ hloaded]
  dsimp only
  rw [setDev_getElem_self]
  exact DevReg.issueTape_answers hidle _ _ v

theorem State.printer_answers (hinst : s.params.printers.getLsbD d = true) (hidle : s.printers[d].reg.busy = none)
    (v : Word) : s.printers[d].reg.Answers (s.writeDevice 6 d 1 v).printers[d].reg 2 false v := by
  rw [State.writeDevice_printer, if_pos hinst, State.writePrinter_command]
  dsimp only
  rw [setDev_getElem_self]
  exact DevReg.issue_answers hidle (by omega) (markFits_zero false) _ _ v

theorem State.receiver_answers (hinst : s.params.terminals.getLsbD d = true) (hidle : s.terminals[d].recv.busy = none)
    (v : Word) : s.terminals[d].recv.Answers (s.writeDevice 7 d 1 v).terminals[d].recv 2 true v := by
  rw [State.writeDevice_terminal, if_pos hinst, State.writeTerminal_recvCommand]
  dsimp only
  rw [setDev_getElem_self]
  exact DevReg.issue_answers hidle (by omega) (markFits_termMark _ _ _) _ _ v

theorem State.transmitter_answers (hinst : s.params.terminals.getLsbD d = true)
    (hidle : s.terminals[d].transm.busy = none) (v : Word) :
    s.terminals[d].transm.Answers (s.writeDevice 7 d 3 v).terminals[d].transm 2 true v := by
  rw [State.writeDevice_terminal, if_pos hinst, State.writeTerminal_transmCommand]
  dsimp only
  rw [setDev_getElem_self]
  exact DevReg.issue_answers hidle (by omega) (markFits_termMark _ _ _) _ _ v

/-! ### Everything a store to an idle device changes -/

/-- Where a RESET puts a mechanism, in the form of the statement (R400). -/
theorem DevReg.ite_resets {r : DevReg} (hidle : r.busy = none) (v : Word) (n : Nat) :
    (if r.resets v then 0 else n) = if v.toNat % 256 = 0 then 0 else n := by
  simp only [DevReg.resets_idle hidle, decide_eq_true_eq]

theorem State.disk_stores (hinst : s.params.disks.getLsbD d = true) (hidle : s.disks[d].reg.busy = none) (v : Word) :
    s.writeDevice 3 d 2 v
        = { s with disks := s.disks.set d { s.disks[d] with reg := { s.disks[d].reg with data0 := v } } }
      ∧ ∃ k : Disk, s.writeDevice 3 d 1 v = { s with disks := s.disks.set d k }
        ∧ k.boom = (if v.toNat % 256 = 0 then 0 else s.disks[d].boom) ∧ k.image = s.disks[d].image
        ∧ k.reg.data1 = s.disks[d].reg.data1 := by
  rw [State.writeDevice_disk, State.writeDevice_disk, if_pos hinst, if_pos hinst, ← DevReg.setData0_idle hidle]
  exact ⟨rfl, _, s.writeDisk_command d v, DevReg.ite_resets hidle v _, rfl, DevReg.issue_data1 _ _ _ _ v⟩

theorem State.tape_stores (hinst : s.params.tapes.getLsbD d = true) (hidle : s.tapes[d].reg.busy = none) (v : Word) :
    s.writeDevice 4 d 2 v
        = { s with tapes := s.tapes.set d { s.tapes[d] with reg := { s.tapes[d].reg with data0 := v } } }
      ∧ (s.tapes[d].cartridge = none → s.writeDevice 4 d 1 v = s)
      ∧ (s.tapes[d].cartridge ≠ none → ∃ k : Tape, s.writeDevice 4 d 1 v = { s with tapes := s.tapes.set d k }
        ∧ k.head = (if v.toNat % 256 = 0 then 0 else s.tapes[d].head) ∧ k.cartridge = s.tapes[d].cartridge
        ∧ k.reg.data1 = if v.toNat % 256 = 1 ∨ 4 < v.toNat % 256 then s.tapes[d].reg.data1 else none) := by
  rw [State.writeDevice_tape, State.writeDevice_tape, if_pos hinst, if_pos hinst, ← DevReg.setData0_idle hidle]
  exact ⟨rfl, s.writeTape_command_empty d v, fun hloaded => ⟨_, s.writeTape_command d v hloaded,
    DevReg.ite_resets hidle v _, rfl, DevReg.issueTape_data1 hidle _ _ v⟩⟩

theorem State.printer_stores (hinst : s.params.printers.getLsbD d = true) (hidle : s.printers[d].reg.busy = none)
    (v : Word) :
    s.writeDevice 6 d 2 v
        = { s with printers := s.printers.set d { s.printers[d] with reg := { s.printers[d].reg with data0 := v } } }
      ∧ ∃ k : Printer, s.writeDevice 6 d 1 v = { s with printers := s.printers.set d k }
        ∧ k.output = s.printers[d].output ∧ k.reg.data1 = s.printers[d].reg.data1 := by
  rw [State.writeDevice_printer, State.writeDevice_printer, if_pos hinst, if_pos hinst, ← DevReg.setData0_idle hidle]
  exact ⟨rfl, _, s.writePrinter_command d v, rfl, DevReg.issue_data1 _ _ _ _ v⟩

theorem State.terminal_stores (hinst : s.params.terminals.getLsbD d = true) (v : Word) : ∀ f ∈ [1, 3], ∃ k : Terminal,
    s.writeDevice 7 d f v = { s with terminals := s.terminals.set d k }
      ∧ k.input = s.terminals[d].input ∧ k.output = s.terminals[d].output := by
  intro f hf
  rw [State.writeDevice_terminal, if_pos hinst]
  simp only [List.mem_cons, List.not_mem_nil, or_false] at hf
  obtain rfl | rfl := hf
  · exact ⟨_, s.writeTerminal_recvCommand d v, rfl, rfl⟩
  · exact ⟨_, s.writeTerminal_transmCommand d v, rfl, rfl⟩

end

/-- Settles O48: every class answers COMMAND as `DevReg.Answers` says; what else changes is its mechanism and DATA1. -/
theorem commandProtocol : Obligations.CommandProtocol := by
  unfold Obligations.CommandProtocol
  refine ⟨fun s d v old new last terminal hclass hidle => ⟨?_, s.writeDevice_otherHalf d v⟩, fun s d v =>
    ⟨fun hinst hidle => State.disk_stores hinst hidle v, fun hinst hidle => State.tape_stores hinst hidle v,
      fun hinst hidle => State.printer_stores hinst hidle v, fun hinst => State.terminal_stores hinst v,
      s.writeDevice_readOnly d v, s.writeDevice_terminalStatus d v⟩⟩
  obtain ⟨hinst, rfl, rfl, rfl, rfl⟩ | ⟨hinst, hloaded, rfl, rfl, rfl, rfl⟩ | ⟨hinst, rfl, rfl, rfl, rfl⟩
    | ⟨hinst, rfl, rfl, rfl, rfl⟩ | ⟨hinst, rfl, rfl, rfl, rfl⟩ := hclass
  · exact State.disk_answers hinst hidle v
  · exact State.tape_answers hinst hloaded hidle v
  · exact State.printer_answers hinst hidle v
  · exact State.receiver_answers hinst hidle v
  · exact State.transmitter_answers hinst hidle v

/-! ### Freezing (R397, R398, R420) -/

/-- A device that is not installed, every network device among them, reads zero and ignores every store. -/
theorem State.uninstalled_frozen (s : State) (d : DevNo) (f : Nat) (v : Word) (line : Nat)
    (hdisk : line = 3 → s.params.disks.getLsbD d = false) (htape : line = 4 → s.params.tapes.getLsbD d = false)
    (hprinter : line = 6 → s.params.printers.getLsbD d = false)
    (hterminal : line = 7 → s.params.terminals.getLsbD d = false) :
    s.readDevice line d f = 0#32 ∧ s.writeDevice line d f v = s := by
  unfold State.readDevice State.writeDevice
  split
  · rw [hdisk rfl]; exact ⟨rfl, rfl⟩
  · rw [htape rfl]; exact ⟨rfl, rfl⟩
  · rw [hprinter rfl]; exact ⟨rfl, rfl⟩
  · rw [hterminal rfl]; exact ⟨rfl, rfl⟩
  · exact ⟨rfl, rfl⟩

/-- Settles O49: a busy register answers neither COMMAND nor DATA0, installed or not. -/
theorem frozenDevices : Obligations.FrozenDevices := by
  unfold Obligations.FrozenDevices
  intro s d f v
  refine ⟨⟨fun hbusy => ?_, fun hbusy => ?_, fun hbusy => ?_, fun hbusy g hg => ?_, fun hbusy g hg => ?_⟩,
    s.uninstalled_frozen d f v⟩
  · rw [State.writeDevice_disk, State.writeDisk_busy v f hbusy, ite_self]
  · rw [State.writeDevice_tape, State.writeTape_busy v f hbusy, ite_self]
  · rw [State.writeDevice_printer, State.writePrinter_busy v f hbusy, ite_self]
  · simp only [List.mem_cons, List.not_mem_nil, or_false] at hg
    obtain rfl | rfl := hg
    · exact s.writeDevice_terminalStatus d v 0 (by simp)
    · rw [State.writeDevice_terminal, State.writeTerminal_recvBusy v hbusy, ite_self]
  · simp only [List.mem_cons, List.not_mem_nil, or_false] at hg
    obtain rfl | rfl := hg
    · exact s.writeDevice_terminalStatus d v 2 (by simp)
    · rw [State.writeDevice_terminal, State.writeTerminal_transmBusy v hbusy, ite_self]

end Sys2Proof.Machine
end

section
/-! SUPPORT. Operations to their end: a printer's and a terminal's tick by tick, and a disk's READBLK word by word. -/

namespace Sys2Proof.Machine

/-! ### Printers (R423) -/

section
variable {k : Printer} {b : Busy} (hb : k.reg.busy = some b) (d : DevNo)
include hb

theorem Printer.tick_running (h : b.elapsed + 1 < b.total) :
    k.tick d = { k with reg := k.reg.progress b (b.elapsed + 1) } := by
  unfold Printer.tick
  rw [hb]
  dsimp only
  rw [if_neg (by omega)]

theorem Printer.tick_done (h : b.total ≤ b.elapsed + 1) (hf : k.reg.failing = false) :
    k.tick d = { k with reg := k.reg.complete 1#32, output := k.output ++ [b.data0.setWidth 8] } := by
  unfold Printer.tick
  rw [hb]
  dsimp only
  rw [if_pos h, hf]
  rfl

/-- Short of its operation's last step a printer counts the steps and does nothing else. -/
theorem Printer.iterate_tick_running : ∀ n : Nat, n = 0 ∨ b.elapsed + n < b.total →
    (fun x : Printer => x.tick d)^[n] k = { k with reg := k.reg.progress b (b.elapsed + n) }
  | 0, _ => by
    have hsame : k.reg.progress b b.elapsed = k.reg := by rw [DevReg.progress, ← hb]
    rw [Nat.add_zero, hsame]
    rfl
  | n + 1, hn => by
    rw [Function.iterate_succ_apply', Printer.iterate_tick_running n (by omega)]
    exact Printer.tick_running (b := { b with elapsed := b.elapsed + n }) rfl d (by dsimp only; omega)

end

/-- Settles O50: see `Printer.iterate_tick_running`; the step after is the operation's last. -/
theorem printerPrintsCharacter : Obligations.PrinterPrintsCharacter := by
  unfold Obligations.PrinterPrintsCharacter
  intro k d b n hb hf hn
  have running := Printer.iterate_tick_running hb d n (by omega)
  have last := Printer.tick_done (k := { k with reg := k.reg.progress b (b.elapsed + n) })
    (b := { b with elapsed := b.elapsed + n }) rfl d (by dsimp only; omega) hf
  rw [Function.iterate_succ_apply', running, last]
  exact ⟨rfl, rfl, rfl, rfl, rfl, rfl⟩

/-! ### Terminals' receivers (R432) -/

/-- A received character's status word: the character above code 5 (R427). -/
theorem receivedStatus_eq (c : Byte) : c.setWidth 32 <<< 8 ||| 5#32 = BitVec.ofNat 32 (c.toNat * 256 + 5) := by
  have hc := c.isLt
  apply BitVec.eq_of_toNat_eq
  rw [BitVec.toNat_or, BitVec.toNat_shiftLeft, BitVec.toNat_setWidth_of_le (by omega), BitVec.toNat_ofNat,
    BitVec.toNat_ofNat, Nat.mod_eq_of_lt (by rw [Nat.shiftLeft_eq]; omega), Nat.mod_eq_of_lt (by omega),
    Nat.mod_eq_of_lt (by omega), ← Nat.shiftLeft_add_eq_or_of_lt (by omega), Nat.shiftLeft_eq]

section
variable {k : Terminal} {b : Busy} (hb : k.recv.busy = some b) (d : DevNo) (draws : Nat)
include hb

/-- Without input it counts the steps and goes on waiting. -/
theorem Terminal.recvTick_waiting (hempty : k.input = []) :
    k.recvTick d draws = { k with recv := k.recv.progress b (b.elapsed + 1) } := by
  unfold Terminal.recvTick
  rw [hb]
  dsimp only
  rw [hempty]
  dsimp only
  rw [ite_self]

variable {c : Byte} {rest : List Byte} (hinput : k.input = c :: rest) (hdone : b.total ≤ b.elapsed + 1)
include hinput hdone

theorem Terminal.recvTick_received (hf : k.recv.failing = false) :
    k.recvTick d draws = { k with recv := k.recv.complete (c.setWidth 32 <<< 8 ||| 5#32), input := rest } := by
  unfold Terminal.recvTick
  rw [hb]
  dsimp only
  rw [if_pos hdone, hinput]
  dsimp only
  rw [hf]
  rfl

/-- With the failure switch on it completes in error, and may lose the character (R402). -/
theorem Terminal.recvTick_failed (hf : k.recv.failing = true) : ∃ input : List Byte,
    k.recvTick d draws = { k with recv := k.recv.complete (termMark recvUnit d draws ||| 4#32), input := input } := by
  unfold Terminal.recvTick
  rw [hb]
  dsimp only
  rw [if_pos hdone, hinput]
  dsimp only
  rw [hf]
  exact ⟨_, rfl⟩

end

/-- Settles O51: a step without input is a wait, the last step with input a completion, in error or not. -/
theorem receiverWaitsForInput : Obligations.ReceiverWaitsForInput := by
  unfold Obligations.ReceiverWaitsForInput
  intro k d b draws hb
  refine ⟨fun hempty => ?_, fun c rest hinput hdone => ?_⟩
  · rw [Terminal.recvTick_waiting hb d draws hempty]
    exact ⟨rfl, rfl, rfl, hempty⟩
  · cases hf : k.recv.failing with
    | false =>
      rw [Terminal.recvTick_received hb d draws hinput hdone hf, receivedStatus_eq]
      exact ⟨rfl, rfl, rfl, fun _ => ⟨rfl, rfl⟩, nofun⟩
    | true =>
      obtain ⟨input, hfailed⟩ := Terminal.recvTick_failed hb d draws hinput hdone hf
      rw [hfailed]
      exact ⟨rfl, rfl, rfl, nofun, fun _ => DevReg.shows_of_status (markFits_termMark recvUnit d draws) rfl⟩

/-! ### Block copies (R125, R399) -/

/-- One word's four bytes at `x` of `src` copied to `y`. -/
def Memory.copyWord (src : Memory) (x y : Nat) (m : Memory) : Memory :=
  (((m.write y (src.read x)).write (y + 1) (src.read (x + 1))).write (y + 2) (src.read (x + 2))).write (y + 3)
    (src.read (x + 3))

theorem Memory.copyWords_succ (moves : Nat → Bool) (src : Memory) (x y n : Nat) (m : Memory) :
    Memory.copyWords moves src x y (n + 1) m =
      if moves n then Memory.copyWord src (x + 4 * n) (y + 4 * n) (Memory.copyWords moves src x y n m)
      else Memory.copyWords moves src x y n m := rfl

theorem Memory.read_copyWord (src : Memory) (x y : Nat) (m : Memory) (a : Nat) :
    (Memory.copyWord src x y m).read a = if y ≤ a ∧ a < y + 4 then src.read (x + (a - y)) else m.read a := by
  simp only [Memory.copyWord, Memory.read_write]
  by_cases hin : y ≤ a ∧ a < y + 4
  · obtain rfl | rfl | rfl | rfl : a = y ∨ a = y + 1 ∨ a = y + 2 ∨ a = y + 3 := by omega
    all_goals simp
  · rw [if_neg (by omega), if_neg (by omega), if_neg (by omega), if_neg (by omega), if_neg hin]

/-- A block copy, byte by byte: those of the words selected come from the source. -/
theorem Memory.read_copyWords (moves : Nat → Bool) (src m : Memory) (x y a : Nat) : ∀ n : Nat,
    (Memory.copyWords moves src x y n m).read a =
      if y ≤ a ∧ a < y + 4 * n ∧ moves ((a - y) / 4) = true then src.read (x + (a - y)) else m.read a
  | 0 => by rw [if_neg (by omega)]; rfl
  | n + 1 => by
    have ih := Memory.read_copyWords moves src m x y a n
    rw [Memory.copyWords_succ]
    by_cases hlast : y + 4 * n ≤ a ∧ a < y + 4 * n + 4
    · have hword : (a - y) / 4 = n := by omega
      cases hmoves : moves n with
      | false =>
        rw [if_neg Bool.false_ne_true, ih, if_neg (by omega), if_neg (by simp [hword, hmoves])]
      | true =>
        rw [if_pos rfl, Memory.read_copyWord, if_pos hlast, if_pos ⟨by omega, by omega, by rw [hword, hmoves]⟩,
          show x + 4 * n + (a - (y + 4 * n)) = x + (a - y) by omega]
    · have hkept (m' : Memory) : (Memory.copyWord src (x + 4 * n) (y + 4 * n) m').read a = m'.read a := by
        rw [Memory.read_copyWord, if_neg hlast]
      rw [apply_ite (Memory.read · a), hkept, ite_self, ih]
      refine if_congr (and_congr_right fun _ => and_congr_left fun _ => ?_) rfl rfl
      omega

/-- Memory after `e` steps of a transfer of 4096 bytes from `x` of `src` to `y` (R125). -/
def Memory.transferred (moves : Nat → Nat → Bool) (src : Memory) (x y : Nat) : Nat → Memory → Memory
  | 0, m => m
  | e + 1, m => Memory.copyWords (moves (e + 1)) src x y 1024 (Memory.transferred moves src x y e m)

section
variable (moves : Nat → Nat → Bool) (src m : Memory) (x y : Nat)

theorem Memory.read_transferred_outside {a : Nat} (h : a < y ∨ y + 4096 ≤ a) : ∀ e : Nat,
    (Memory.transferred moves src x y e m).read a = m.read a
  | 0 => rfl
  | e + 1 => by
    rw [Memory.transferred, Memory.read_copyWords, if_neg (by omega), Memory.read_transferred_outside h e]

/-- A word that has moved is the source's, whatever moves after it. -/
theorem Memory.read_transferred_moved {j : Nat} (hj : j < 4096) : ∀ e : Nat,
    (∃ i, 1 ≤ i ∧ i ≤ e ∧ moves i (j / 4) = true) →
      (Memory.transferred moves src x y e m).read (y + j) = src.read (x + j)
  | 0, ⟨_, hlow, hhigh, _⟩ => by omega
  | e + 1, ⟨i, hlow, hhigh, hi⟩ => by
    rw [Memory.transferred, Memory.read_copyWords, Nat.add_sub_cancel_left]
    by_cases hnow : moves (e + 1) (j / 4) = true
    · rw [if_pos ⟨by omega, by omega, hnow⟩]
    · have hbefore : i ≠ e + 1 := fun he => hnow (he ▸ hi)
      rw [if_neg fun ⟨_, _, h⟩ => hnow h, Memory.read_transferred_moved hj e ⟨i, hlow, by omega, hi⟩]

end

/-- Every word of a block has moved by the last step of its operation. -/
theorem dmaMoves_by_end (unit : Nat) (d : DevNo) {b : Busy} (h : 0 < b.total) (j : Nat) :
    ∃ i, 1 ≤ i ∧ i ≤ b.total ∧ dmaMoves unit d b i j = true := by
  have hfirst : 1 ≤ dmaStep unit d b j := Nat.le_add_right 1 _
  rcases Nat.lt_or_ge (dmaStep unit d b j) b.total with hfree | hlate
  · exact ⟨dmaStep unit d b j, hfirst, by omega, by rw [dmaMoves, if_neg (by omega), decide_eq_true rfl]⟩
  · exact ⟨b.total, h, le_refl _, by rw [dmaMoves, if_pos (le_refl _), decide_eq_true hlate]⟩

/-! ### A disk's READBLK (R409, R410) -/

/-- The block a READBLK or WRITEBLK names (R405, R409). -/
theorem diskBlock_some {g : DiskGeom} {boom : Nat} {command : Word}
    (hhead : (command.extractLsb' 16 8).toNat < g.maxHead.toNat)
    (hsect : (command.extractLsb' 8 8).toNat < g.maxSect.toNat) :
    diskBlock g boom command = some (((boom * g.maxHead.toNat + (command.extractLsb' 16 8).toNat) * g.maxSect.toNat
      + (command.extractLsb' 8 8).toNat) * 4096) := by
  unfold diskBlock
  dsimp only
  rw [if_pos (by simp only [hhead, hsect, decide_true, Bool.and_self])]

theorem dmaInRam_of {p : Params} {a : Word} (halign : a.toNat % 4 = 0) (hlow : 0x20000000 ≤ a.toNat)
    (hhigh : a.toNat + 4096 ≤ 0x20000000 + p.ramSize) : dmaInRam p a = true := by
  have htop : a.toNat + 4096 ≤ p.ramTop := hhigh
  simp only [dmaInRam, Bool.and_eq_true, decide_eq_true_eq]
  exact ⟨⟨halign, hlow⟩, htop⟩

/-- Disk `d`'s operation `b` is a READBLK of the block at `off` of its image that can succeed (R409, R410). -/
structure State.ReadsBlock (s : State) (d : DevNo) (b : Busy) (off : Nat) : Prop where
  code : commandCode b.command = 3#8
  block : diskBlock s.params.diskGeom[d] s.disks[d].boom b.command = some off
  inRam : dmaInRam s.params b.data0 = true
  working : s.disks[d].reg.failing = false

/-- The machine `e` steps into disk `d`'s operation `b`, its memory being `m`. -/
def State.diskAt (s : State) (d : DevNo) (b : Busy) (e : Nat) (m : Memory) : State :=
  { s with mem := m, disks := setDev s.disks d { s.disks[d] with reg := s.disks[d].reg.progress b e } }

section
variable {s : State} {d : DevNo} {b : Busy} {off : Nat} {e : Nat} {m : Memory}

theorem State.diskAt_disk (s : State) (d : DevNo) (b : Busy) (e : Nat) (m : Memory) :
    (s.diskAt d b e m).disks[d] = { s.disks[d] with reg := s.disks[d].reg.progress b e } := setDev_getElem_self _ _ _

theorem setDev_setDev {α : Type} (bank : Vector α 8) (d : DevNo) (x y : α) :
    setDev (setDev bank d x) d y = setDev bank d y := by
  simp [setDev]

/-- At its start. -/
theorem State.diskAt_zero (hb : s.disks[d].reg.busy = some b) (hzero : b.elapsed = 0) : s.diskAt d b 0 s.mem = s := by
  have hsame : s.disks[d].reg.progress b 0 = s.disks[d].reg := by rw [DevReg.progress, ← hzero, ← hb]
  rw [State.diskAt, hsame, setDev_self]

variable (h : s.ReadsBlock d b off)
include h

theorem State.ReadsBlock.diskAt (e : Nat) (m : Memory) :
    (s.diskAt d b e m).ReadsBlock d { b with elapsed := e } off := by
  refine ⟨h.code, ?_, h.inRam, ?_⟩ <;> rw [State.diskAt_disk]
  · exact h.block
  · exact h.working

theorem State.ReadsBlock.diskMoves (e : Nat) : s.diskMoves d b e =
    { s with mem := Memory.copyWords (dmaMoves diskUnit d b e) s.disks[d].image off b.data0.toNat 1024 s.mem } := by
  unfold State.diskMoves
  dsimp only
  rw [h.block]
  dsimp only
  rw [if_pos h.inRam, if_pos h.code]

/-- What can succeed does (R410). -/
theorem State.ReadsBlock.endDiskOp (e : Nat) : s.endDiskOp d b e = (s.diskMoves d b e).endDisk d 1#32 := by
  have hfails :
      (s.disks[d].reg.failing || (diskBlock s.params.diskGeom[d] s.disks[d].boom b.command).isNone) = false := by
    rw [h.working, h.block]
    rfl
  simp only [State.endDiskOp, h.code, State.endDiskRead, hfails, h.inRam, Bool.not_true, Bool.false_eq_true, if_false]

/-- A step of the operation before its last: some words of the block move. -/
theorem State.ReadsBlock.diskTick_running (he : e + 1 < b.total) :
    (s.diskAt d b e m).diskTick d = s.diskAt d b (e + 1)
      (Memory.copyWords (dmaMoves diskUnit d b (e + 1)) s.disks[d].image off b.data0.toNat 1024 m) := by
  have hbusy : (s.diskAt d b e m).disks[d].reg.busy = some { b with elapsed := e } := by rw [State.diskAt_disk]; rfl
  unfold State.diskTick
  rw [hbusy]
  dsimp only
  rw [if_neg (by omega), (h.diskAt e m).diskMoves]
  dsimp only
  rw [State.diskAt_disk]
  simp only [State.diskAt, setDev_setDev]
  rfl

/-- Its last step: the words that are left move, and the disk interrupts with Device Ready (R410). -/
theorem State.ReadsBlock.diskTick_done (he : b.total = e + 1) :
    ((s.diskAt d b e m).diskTick d).mem =
        Memory.copyWords (dmaMoves diskUnit d b (e + 1)) s.disks[d].image off b.data0.toNat 1024 m
      ∧ ((s.diskAt d b e m).diskTick d).disks[d].reg = s.disks[d].reg.complete 1#32 := by
  have hreads := h.diskAt e m
  have hbusy : (s.diskAt d b e m).disks[d].reg.busy = some { b with elapsed := e } := by rw [State.diskAt_disk]; rfl
  have hlast : (s.diskAt d b e m).diskTick d =
      ((s.diskAt d b e m).diskMoves d { b with elapsed := e } (e + 1)).endDisk d 1#32 := by
    unfold State.diskTick
    rw [hbusy]
    dsimp only
    rw [if_pos (by omega), hreads.endDiskOp]
  rw [hlast, hreads.diskMoves]
  unfold State.endDisk
  dsimp only
  rw [setDev_getElem_self, State.diskAt_disk]
  exact ⟨rfl, rfl⟩

/-- The operation step by step, up to its last. -/
theorem State.ReadsBlock.iterate_diskTick (hb : s.disks[d].reg.busy = some b) (hzero : b.elapsed = 0) : ∀ n : Nat,
    n < b.total → (fun u : State => u.diskTick d)^[n] s = s.diskAt d b n
      (Memory.transferred (dmaMoves diskUnit d b) s.disks[d].image off b.data0.toNat n s.mem)
  | 0, _ => (State.diskAt_zero hb hzero).symm
  | n + 1, hn => by
    rw [Function.iterate_succ_apply', State.ReadsBlock.iterate_diskTick hb hzero n (by omega), h.diskTick_running hn]
    rfl

end

/-- Settles O52: by the last step every word of the block has moved to its place, and no other byte has changed. -/
theorem diskReadTransfersBlock : Obligations.DiskReadTransfersBlock := by
  unfold Obligations.DiskReadTransfersBlock
  rintro s d b off n hb hzero htotal hworking hcode head sect rfl rfl hhead hsect hoff halign hlow hhigh t rfl
  have hreads : s.ReadsBlock d b off :=
    ⟨hcode, by rw [hoff]; exact diskBlock_some hhead hsect, dmaInRam_of halign hlow hhigh, hworking⟩
  rw [Function.iterate_succ_apply', hreads.iterate_diskTick hb hzero n (by omega)]
  obtain ⟨hmem, hreg⟩ := hreads.diskTick_done (e := n) htotal
  rw [hmem, hreg]
  refine ⟨fun j hj => ?_, fun a ha => ?_, rfl, rfl, rfl⟩
  · exact Memory.read_transferred_moved _ _ _ _ _ hj (n + 1) (htotal ▸ dmaMoves_by_end diskUnit d (by omega) (j / 4))
  · exact Memory.read_transferred_outside _ _ _ _ _ ha (n + 1)

end Sys2Proof.Machine
end

section
/-! SUPPORT. Time of Day and Random through a step: only the clock tick moves them (R383, R480, R481). -/

namespace Sys2Proof.Machine

/-- Time of Day and Random are the same. -/
structure SameClocks (s t : State) : Prop where
  tod : t.tod = s.tod
  random : t.random = s.random

theorem SameCpu.sameClocks {s t : State} (h : SameCpu s t) : SameClocks s t := ⟨h.tod, h.random⟩

/-- The end of an instruction's step does not tick again. -/
theorem SameClocks.retire {s u : State} (h : SameClocks s u) (e : Retire) : SameClocks s (u.retire e) :=
  ⟨(State.retire_tod u e).trans h.tod, (State.retire_random u e).trans h.random⟩

/-- MTC0 writes neither: Random is read-only, Time of Day is no CP0 register (R56, R276). -/
theorem State.cp0Write_sameClocks {s t : State} {rd : RegIdx} {v : Word} (h : s.cp0Write rd v = some t) :
    SameClocks s t := by
  unfold State.cp0Write at h
  split at h <;> cases h <;> exact ⟨rfl, rfl⟩

/-- No instruction moves a clock. -/
theorem Effect.sameClocks {s t : State} (h : Effect s t) : SameClocks s t := by
  cases h with
  | entry e => exact ⟨rfl, rfl⟩
  | registers hi lo e => exact ⟨rfl, rfl⟩
  | store hw => exact (State.memWrite_frame hw).sameClocks.retire {}
  | storeAround hw => exact (State.writeAround_frame hw).sameClocks.retire {}
  | cp0 _ hw => exact (State.cp0Write_sameClocks hw).retire {}
  | tlb _ v => exact ⟨rfl, rfl⟩
  | tlbRead _ hi lo => exact ⟨rfl, rfl⟩
  | probe _ v => exact ⟨rfl, rfl⟩
  | rfe _ => exact ⟨rfl, rfl⟩

/-- Without the ROM contract no turn of the machine moves a clock after the agents' tick. -/
theorem Turn.sameClocks {s t : State} (h : Turn s t) (hrom : s.params.romContract = false) : SameClocks s t := by
  cases h with
  | ended _ => exact ⟨rfl, rfl⟩
  | entry e => exact ⟨rfl, rfl⟩
  | instruction he => exact he.sameClocks
  | rom hcontract _ => rw [hrom] at hcontract; cases hcontract

theorem State.agents_tod (s : State) : s.agents.tod = s.tod + 1#64 := by
  rw [State.agents_eq, State.tick_tod, s.devicesTick_frame.tod]

/-- The controllers leave Random and the configuration, so the agents' tick steps Random as the state's own would. -/
theorem State.agents_random (s : State) : s.agents.random = s.tick.random := by
  have hindex : s.devicesTick.randomIndex = s.randomIndex :=
    congrArg (BitVec.extractLsb' 8 6) s.devicesTick_frame.random
  rw [State.agents_eq, State.tick_random, State.tick_random, s.devicesTick_frame.params, hindex]

end Sys2Proof.Machine
end

section
/-! SUPPORT. The device protocol in the state after reset (R66, R397). -/

namespace Sys2Proof.Machine

/-- Every device register comes out of reset idle, installed or not. -/
theorem State.resetWith_devicesSound (p : Params) (m : Media) : (State.resetWith p m).devicesSound = true := by
  have terminalReset := DevReg.reset_terminalSound
  have reset (installed : Bool) : (DevReg.reset installed).sound = true :=
    DevReg.sound_of_terminalSound (terminalReset installed)
  rw [State.devicesSound_iff]
  simp only [State.resetWith_disks, State.resetWith_tapes, State.resetWith_printers, State.resetWith_terminals]
  exact ⟨fun _ => reset _, fun _ => reset _, fun _ => reset _, fun _ => terminalReset _, fun _ => terminalReset _⟩

end Sys2Proof.Machine
end

section
/-! The statements about reset and the clock (70_reset_and_hazards.md). -/

namespace Sys2Proof.Machine

/-- Settles O47: the agents tick once, and the machine's turn leaves the clocks as they are then. -/
theorem everyStepTicksOnce : Obligations.EveryStepTicksOnce := by
  unfold Obligations.EveryStepTicksOnce
  intro s t hquiet hrom hstep
  obtain ⟨_, hturn⟩ := step_turn_quiet hquiet hstep
  have hagents : s.agents.params.romContract = false := by rw [State.agents_params]; exact hrom
  obtain ⟨htod, hrandom⟩ := hturn.sameClocks hagents
  exact ⟨htod.trans s.agents_tod, hrandom.trans s.agents_random⟩

/-- Settles O55: the invariant by its two halves, the protocol register by register. -/
theorem resetMeetsInvariant : Obligations.ResetMeetsInvariant := by
  unfold Obligations.ResetMeetsInvariant
  intro p m
  exact ⟨fun hmedia => (State.inv_iff _).2 (State.resetWith_sound p m hmedia), State.resetWith_devicesSound p m⟩

end Sys2Proof.Machine
end
